-- ==== Sys2Proof/Word.lean ====
section
/-! DEFINITION. The word types of the BVE (00_scope.md R6, R8): the byte, the 32-bit command or host word, the 64-bit
scalar, and the two kinds of register number. -/

namespace Sys2Proof

/-- One DMEM location (20_memory.md R60). -/
abbrev Byte := BitVec 8

/-- A 32-bit word: a command (CMDLEN = 32), the PC (PCLEN = 32) or a host register (00_scope.md R6, 10_state.md R29). -/
abbrev Word := BitVec 32

/-- The contents of a scalar register (XLEN = 64, 00_scope.md R6). -/
abbrev Scalar := BitVec 64

/-- The number of a vector register V0 to V7 (30_encoding.md R85). -/
abbrev VIx := Fin 8

/-- The number of a scalar register X0 to X7 (30_encoding.md R85). -/
abbrev XIx := Fin 8

end Sys2Proof
end

