-- ==== Sys2Proof/Config.lean ====
section
/-! DEFINITION. What one implementation of the BVE fixes (00_scope.md R6), and the free values: what the spec leaves open
(93_implementation_defined.md U1, U2, U5). A free value is an opaque constant: nothing can be proved of what it is. -/

namespace Sys2Proof

/-- The open parameters of 00_scope.md R6. The other parameters of that rule are fixed. -/
structure Config where
  /-- MAXLEN: the largest length, in bits, of a vector register. -/
  maxLen : Nat
  /-- NUMBITS: numbers are exact unsigned integers below 2^NUMBITS. -/
  numBits : Nat
  /-- DMEM_BYTES: the size of the data memory in bytes. -/
  dmemBytes : Nat
  deriving DecidableEq, Repr

/-- The legal ranges of 00_scope.md R6. -/
abbrev Config.Legal (c : Config) : Prop :=
  c.maxLen % 8 = 0 ∧ 64 ≤ c.maxLen ∧ c.maxLen ≤ 2 ^ 32 - 8 ∧
  32 ≤ c.numBits ∧ c.numBits ≤ 64 ∧
  c.dmemBytes % 4 = 0 ∧ 4 ≤ c.dmemBytes ∧ c.dmemBytes ≤ 2 ^ 32 - 2 ^ 16

/-- The defaults of 00_scope.md R6. -/
def Config.default : Config := { maxLen := 65536, numBits := 53, dmemBytes := 65536 }

/-- NV = 8 vector registers, fixed (00_scope.md R6). -/
def Config.nv : Nat := 8

/-- NX = 8 scalar registers, fixed (00_scope.md R6). -/
def Config.nx : Nat := 8

/-- MAXOPS = 6 operands of AND, OR and XOR, fixed (00_scope.md R6). -/
def Config.maxOps : Nat := 6

/-- REV, the revision of the command set BVE-1 (00_scope.md R2, 10_state.md R31). -/
def Config.revision : Nat := 1

/-- The identification value, ASCII "BVE1" (00_scope.md R1, 10_state.md R30). -/
def Config.idValue : Word := 0x42564531#32

/-- FREE VALUE (70_reset_and_hazards.md R342, U1): the byte that DMEM address `a` holds after the power-on reset number `n`
(0 is the one before `State.reset`), for as long as nothing has written it. DESIGN CHOICE, log entry 3. Safe. -/
opaque Config.powerOnDmem (n a : Nat) : Byte

/-- FREE VALUE (70_reset_and_hazards.md R341, U2): whether DMEM address `a`, in the destination range of the command that
the soft reset number `n` cut short, holds its new value (true) or its old one. DESIGN CHOICE, log entry 4. Safe. -/
opaque Config.cutShortStored (n a : Nat) : Bool

/-- FREE VALUE (20_memory.md R61): what DMEM address `a` answers to a host read of a width other than 8, 16 or 32 bits, the
answer being number `n` of all. DESIGN CHOICE, log entry 17. Safe. -/
opaque Config.otherWidthRead (n a : Nat) : Byte

/-- FREE VALUE (20_memory.md R61): what DMEM address `a`, in the range of a host write of a width other than 8, 16 or 32 bits,
holds after it, the write being number `n` of those. DESIGN CHOICE, log entry 17. Safe. -/
opaque Config.otherWidthStored (n a : Nat) : Byte

/-- FREE VALUE (20_memory.md R67, D42, U5): HOST_BASE, the system address of window offset 0. The platform sets it; the
block decodes only offsets. DESIGN CHOICE, log entry 11. Safe. -/
opaque Config.hostBase : Nat

end Sys2Proof
end

