-- ==== Sys2Proof/Syntax.lean ====
section
/-! DEFINITION. The commands of the BVE: one constructor for each row of spec/opcode_table.json, its operands in the order
and the register files of 30_encoding.md R87. -/

namespace Sys2Proof

/-- A decoded command (30_encoding.md R87). -/
inductive Instr where
  /-- 45_sequencer.md R281. -/
  | halt
  /-- 45_sequencer.md R282. -/
  | nop
  /-- 45_sequencer.md R283. -/
  | li (rd : XIx) (imm : BitVec 16)
  /-- 45_sequencer.md R284. -/
  | lis (rd : XIx) (imm : BitVec 16)
  /-- 40_bit_store.md R104: `ra` is the target length. -/
  | fill (rd : VIx) (ra : XIx)
  /-- 40_bit_store.md R105: `ra` is the index, `rb` the value. -/
  | set (rd : VIx) (ra rb : XIx)
  /-- 40_bit_store.md R109. -/
  | setv (rd ra : VIx)
  /-- 40_bit_store.md R106: `rb` is the index. -/
  | get (rd : XIx) (ra : VIx) (rb : XIx)
  /-- 40_bit_store.md R107. -/
  | clr (rd : VIx)
  /-- 40_bit_store.md R108. -/
  | clone (rd ra : VIx)
  /-- 40_bit_store.md R110. -/
  | eq (rd : XIx) (ra rb : VIx)
  /-- 40_bit_store.md R111. -/
  | push (rd : VIx) (ra : XIx)
  /-- 40_bit_store.md R112. -/
  | pop (rd : XIx) (ra : VIx)
  /-- 40_bit_store.md R113. -/
  | brev (rd : VIx)
  /-- 40_bit_store.md R114. -/
  | idxof (rd : XIx) (ra : VIx) (rb : XIx)
  /-- 40_bit_store.md R115: `rb` is the begin index, `rc` the end index. -/
  | slice (rd ra : VIx) (rb rc : XIx)
  /-- 40_bit_store.md R116. -/
  | len (rd : XIx) (ra : VIx)
  /-- 40_bit_store.md R117. -/
  | sflr (rd : VIx) (ra : XIx)
  /-- 41_codec_import.md R156. -/
  | new (rd : VIx)
  /-- 41_codec_import.md R157: `ra` is the address, `rb` the count (so in every import from DMEM). -/
  | fbin (rd : VIx) (ra rb : XIx)
  /-- 41_codec_import.md R158. -/
  | fnum (rd : VIx) (ra : XIx)
  /-- 41_codec_import.md R159. -/
  | fnumo (rd : VIx) (ra : XIx)
  /-- 41_codec_import.md R160. -/
  | ldbits (rd : VIx) (ra rb : XIx)
  /-- 41_codec_import.md R161. -/
  | fints (rd : VIx) (ra rb : XIx)
  /-- 41_codec_import.md R162. -/
  | octet (rd ra : VIx)
  /-- 41_codec_import.md R163. -/
  | foff (rd : VIx) (ra rb : XIx)
  /-- 41_codec_import.md R164. -/
  | fdec (rd : VIx) (ra rb : XIx)
  /-- 41_codec_import.md R165. -/
  | fhex (rd : VIx) (ra rb : XIx)
  /-- 41_codec_import.md R166. -/
  | fhexn (rd : VIx) (ra : XIx)
  /-- 41_codec_import.md R167. -/
  | fbytes (rd : VIx) (ra rb : XIx)
  /-- 42_codec_export.md R203: `rb` is the destination address (so in every export to DMEM). -/
  | tooff (rd : XIx) (ra : VIx) (rb : XIx)
  /-- 42_codec_export.md R204. -/
  | tobytes (rd : XIx) (ra : VIx) (rb : XIx)
  /-- 42_codec_export.md R205. -/
  | tonum (rd : XIx) (ra : VIx)
  /-- 42_codec_export.md R206. -/
  | tohex (rd : XIx) (ra : VIx) (rb : XIx)
  /-- 42_codec_export.md R207. -/
  | tostr (rd : XIx) (ra : VIx) (rb : XIx)
  /-- 42_codec_export.md R208. -/
  | tobits (rd : XIx) (ra : VIx) (rb : XIx)
  /-- 43_set_algebra.md R242: the operand list (V[s0], ..., V[s(n-1)]) of format L. -/
  | and (rd : VIx) (ops : List VIx)
  /-- 43_set_algebra.md R243. -/
  | or (rd : VIx) (ops : List VIx)
  /-- 43_set_algebra.md R244. -/
  | xor (rd : VIx) (ops : List VIx)
  /-- 43_set_algebra.md R245. -/
  | not (rd ra : VIx)
  /-- 44_cardinality.md R261. -/
  | popc32 (rd ra : XIx)
  /-- 44_cardinality.md R262. -/
  | popcv (rd : XIx) (ra : VIx)
  /-- 44_cardinality.md R263: `ra` is the address, `rb` the byte count. -/
  | popcb (rd ra rb : XIx)
  deriving DecidableEq, Repr

end Sys2Proof
end

