-- ==== Sys2Proof/WellFormed.lean ====
section
/-! DEFINITION. Which terms of `Instr` are commands. Register numbers and immediates fit their fields by their types; what
is left to check is the operand list of format L (30_encoding.md R84): 1 to MAXOPS operands. -/

namespace Sys2Proof

/-- "n = 0 and n = 7 are illegal" (30_encoding.md R84, R88): an operand list has 1 to 6 operands. -/
def Instr.legalOps (ops : List VIx) : Bool := 1 ≤ ops.length && ops.length ≤ Config.maxOps

/-- A command that has an encoding. -/
def Instr.wellFormed : Instr → Bool
  | .and _ ops => Instr.legalOps ops
  | .or _ ops => Instr.legalOps ops
  | .xor _ ops => Instr.legalOps ops
  | .halt | .nop | .li .. | .lis .. | .fill .. | .set .. | .setv .. | .get .. | .clr .. | .clone .. | .eq .. | .push ..
  | .pop .. | .brev .. | .idxof .. | .slice .. | .len .. | .sflr .. | .new .. | .fbin .. | .fnum .. | .fnumo ..
  | .ldbits .. | .fints .. | .octet .. | .foff .. | .fdec .. | .fhex .. | .fhexn .. | .fbytes .. | .tooff ..
  | .tobytes .. | .tonum .. | .tohex .. | .tostr .. | .tobits .. | .not .. | .popc32 .. | .popcv .. | .popcb .. => true

end Sys2Proof
end

