-- ==== Sys2Proof/Decode.lean ====
section
/-! DEFINITION. Decoding and encoding commands (30_encoding.md): the formats N, XI, R and L, the opcode map R87, the illegal
encodings R88 and the decode function R89, total over all words; then the encoder, from the same tables. -/

namespace Sys2Proof

/-- Why bytes are no command. Every one of these is the engine's ILLEGAL fault (30_encoding.md R88); `truncated` cannot
reach the engine, which always reads four bytes (R80). -/
inductive DecodeError where
  /-- An opcode not in the map of R87. -/
  | unassignedOpcode (op : Nat)
  /-- A 1 in a "must be 0" bit or in a register field the command does not use. -/
  | mustBeZero
  /-- Format L with n = 0 or n = 7. -/
  | operandCount (n : Nat)
  /-- Format L with a nonzero slot s_k, k ≥ n. -/
  | unusedSlot
  /-- Fewer than four bytes. -/
  | truncated
  deriving DecidableEq, Repr

/-- The field of `width` bits whose lowest bit is bit `lo` (00_scope.md R8: w[hi:lo]). -/
def field (w : Word) (lo width : Nat) : Nat := w.toNat / 2 ^ lo % 2 ^ width

/-- A 3-bit register field (30_encoding.md R85). -/
def regField (w : Word) (lo : Nat) : Fin 8 := Fin.ofNat 8 (field w lo 3)

/-- `i`, where bits 31 down to `lo` are all 0 (R81, R83, R88). -/
def zeroAbove (w : Word) (lo : Nat) (i : Instr) : Except DecodeError Instr :=
  if field w lo (32 - lo) = 0 then .ok i else .error .mustBeZero

/-- Format N (30_encoding.md R81). -/
def formatN (w : Word) (i : Instr) : Except DecodeError Instr := zeroAbove w 8 i

/-- Format XI (30_encoding.md R82): bits 15:11 must be 0. -/
def formatXI (w : Word) (mk : XIx → BitVec 16 → Instr) : Except DecodeError Instr :=
  if field w 11 5 = 0 then .ok (mk (regField w 8) (BitVec.ofNat 16 (field w 16 16))) else .error .mustBeZero

/-- Format R (30_encoding.md R83), a command that uses rd only. -/
def formatR1 (w : Word) (mk : Fin 8 → Instr) : Except DecodeError Instr :=
  zeroAbove w 11 (mk (regField w 8))

/-- Format R, a command that uses rd and ra. -/
def formatR2 (w : Word) (mk : Fin 8 → Fin 8 → Instr) : Except DecodeError Instr :=
  zeroAbove w 14 (mk (regField w 8) (regField w 11))

/-- Format R, a command that uses rd, ra and rb. -/
def formatR3 (w : Word) (mk : Fin 8 → Fin 8 → Fin 8 → Instr) : Except DecodeError Instr :=
  zeroAbove w 17 (mk (regField w 8) (regField w 11) (regField w 14))

/-- Format R, a command that uses rd, ra, rb and rc. -/
def formatR4 (w : Word) (mk : Fin 8 → Fin 8 → Fin 8 → Fin 8 → Instr) : Except DecodeError Instr :=
  zeroAbove w 20 (mk (regField w 8) (regField w 11) (regField w 14) (regField w 17))

/-- The six operand slots s0 to s5 of format L (30_encoding.md R84). -/
def slots (w : Word) : List VIx :=
  [regField w 14, regField w 17, regField w 20, regField w 23, regField w 26, regField w 29]

/-- Format L (30_encoding.md R84, R88, R89). -/
def formatL (w : Word) (mk : VIx → List VIx → Instr) : Except DecodeError Instr :=
  let n := field w 11 3
  if n = 0 ∨ n = 7 then .error (.operandCount n)
  else if ((slots w).drop n).all (· == 0) then .ok (mk (regField w 8) ((slots w).take n))
  else .error .unusedSlot

/-- Decode (30_encoding.md R87, R89). -/
def decode (w : Word) : Except DecodeError Instr :=
  match field w 0 8 with
  | 0x01 => formatN w .halt
  | 0x02 => formatN w .nop
  | 0x08 => formatXI w .li
  | 0x09 => formatXI w .lis
  | 0x10 => formatR2 w .fill
  | 0x11 => formatR3 w .set
  | 0x12 => formatR2 w .setv
  | 0x13 => formatR3 w .get
  | 0x14 => formatR1 w .clr
  | 0x15 => formatR2 w .clone
  | 0x16 => formatR3 w .eq
  | 0x17 => formatR2 w .push
  | 0x18 => formatR2 w .pop
  | 0x19 => formatR1 w .brev
  | 0x1A => formatR3 w .idxof
  | 0x1B => formatR4 w .slice
  | 0x1C => formatR2 w .len
  | 0x1D => formatR2 w .sflr
  | 0x20 => formatR1 w .new
  | 0x21 => formatR3 w .fbin
  | 0x22 => formatR2 w .fnum
  | 0x23 => formatR2 w .fnumo
  | 0x24 => formatR3 w .ldbits
  | 0x25 => formatR3 w .fints
  | 0x26 => formatR2 w .octet
  | 0x27 => formatR3 w .foff
  | 0x28 => formatR3 w .fdec
  | 0x29 => formatR3 w .fhex
  | 0x2A => formatR2 w .fhexn
  | 0x2B => formatR3 w .fbytes
  | 0x30 => formatR3 w .tooff
  | 0x31 => formatR3 w .tobytes
  | 0x32 => formatR2 w .tonum
  | 0x33 => formatR3 w .tohex
  | 0x34 => formatR3 w .tostr
  | 0x35 => formatR3 w .tobits
  | 0x40 => formatL w .and
  | 0x41 => formatL w .or
  | 0x42 => formatL w .xor
  | 0x43 => formatR2 w .not
  | 0x48 => formatR2 w .popc32
  | 0x49 => formatR2 w .popcv
  | 0x4A => formatR3 w .popcb
  | op => .error (.unassignedOpcode op)

/-- Format N as a number (30_encoding.md R81). -/
def packN (op : Nat) : Nat := op

/-- Format XI as a number (30_encoding.md R82). -/
def packXI (op : Nat) (rd : XIx) (imm : BitVec 16) : Nat := op + rd.val * 2 ^ 8 + imm.toNat * 2 ^ 16

/-- Format R as a number (30_encoding.md R83). -/
def packR (op : Nat) (rd ra rb rc : Fin 8) : Nat :=
  op + rd.val * 2 ^ 8 + ra.val * 2 ^ 11 + rb.val * 2 ^ 14 + rc.val * 2 ^ 17

/-- The operand slots as a number, the first in the lowest three bits (30_encoding.md R84). -/
def packSlots (ops : List VIx) : Nat := ops.foldr (fun r acc => r.val + 8 * acc) 0

/-- Format L as a number (30_encoding.md R84). -/
def packL (op : Nat) (rd : VIx) (ops : List VIx) : Nat :=
  op + rd.val * 2 ^ 8 + ops.length * 2 ^ 11 + packSlots ops * 2 ^ 14

/-- The bits of a command, bit 0 the least significant (30_encoding.md R87). -/
def encodeNat : Instr → Nat
  | .halt => packN 0x01
  | .nop => packN 0x02
  | .li rd imm => packXI 0x08 rd imm
  | .lis rd imm => packXI 0x09 rd imm
  | .fill rd ra => packR 0x10 rd ra 0 0
  | .set rd ra rb => packR 0x11 rd ra rb 0
  | .setv rd ra => packR 0x12 rd ra 0 0
  | .get rd ra rb => packR 0x13 rd ra rb 0
  | .clr rd => packR 0x14 rd 0 0 0
  | .clone rd ra => packR 0x15 rd ra 0 0
  | .eq rd ra rb => packR 0x16 rd ra rb 0
  | .push rd ra => packR 0x17 rd ra 0 0
  | .pop rd ra => packR 0x18 rd ra 0 0
  | .brev rd => packR 0x19 rd 0 0 0
  | .idxof rd ra rb => packR 0x1A rd ra rb 0
  | .slice rd ra rb rc => packR 0x1B rd ra rb rc
  | .len rd ra => packR 0x1C rd ra 0 0
  | .sflr rd ra => packR 0x1D rd ra 0 0
  | .new rd => packR 0x20 rd 0 0 0
  | .fbin rd ra rb => packR 0x21 rd ra rb 0
  | .fnum rd ra => packR 0x22 rd ra 0 0
  | .fnumo rd ra => packR 0x23 rd ra 0 0
  | .ldbits rd ra rb => packR 0x24 rd ra rb 0
  | .fints rd ra rb => packR 0x25 rd ra rb 0
  | .octet rd ra => packR 0x26 rd ra 0 0
  | .foff rd ra rb => packR 0x27 rd ra rb 0
  | .fdec rd ra rb => packR 0x28 rd ra rb 0
  | .fhex rd ra rb => packR 0x29 rd ra rb 0
  | .fhexn rd ra => packR 0x2A rd ra 0 0
  | .fbytes rd ra rb => packR 0x2B rd ra rb 0
  | .tooff rd ra rb => packR 0x30 rd ra rb 0
  | .tobytes rd ra rb => packR 0x31 rd ra rb 0
  | .tonum rd ra => packR 0x32 rd ra 0 0
  | .tohex rd ra rb => packR 0x33 rd ra rb 0
  | .tostr rd ra rb => packR 0x34 rd ra rb 0
  | .tobits rd ra rb => packR 0x35 rd ra rb 0
  | .and rd ops => packL 0x40 rd ops
  | .or rd ops => packL 0x41 rd ops
  | .xor rd ops => packL 0x42 rd ops
  | .not rd ra => packR 0x43 rd ra 0 0
  | .popc32 rd ra => packR 0x48 rd ra 0 0
  | .popcv rd ra => packR 0x49 rd ra 0 0
  | .popcb rd ra rb => packR 0x4A rd ra rb 0

/-- The word of a well-formed command. -/
def encode (i : Instr) : Word := BitVec.ofNat 32 (encodeNat i)

/-- The value of bytes in little-endian order (20_memory.md R63). -/
def leNat (bs : List Byte) : Nat := bs.foldr (fun b acc => b.toNat + 256 * acc) 0

/-- The little-endian bytes of a 32-bit value, lowest address first (20_memory.md R62, WriteU32). -/
def u32Bytes (v : Nat) : List Byte :=
  [BitVec.ofNat 8 v, BitVec.ofNat 8 (v / 2 ^ 8), BitVec.ofNat 8 (v / 2 ^ 16), BitVec.ofNat 8 (v / 2 ^ 24)]

/-- Decode from bytes, lowest address first (30_encoding.md R80: four bytes, little-endian), with the bytes left over. -/
def decodeBytes : List Byte → Except DecodeError (Instr × List Byte)
  | b0 :: b1 :: b2 :: b3 :: rest =>
    match decode (BitVec.ofNat 32 (leNat [b0, b1, b2, b3])) with
    | .ok i => .ok (i, rest)
    | .error e => .error e
  | _ => .error .truncated

/-- The bytes of a command as DMEM holds them (30_encoding.md R80). -/
def encodeBytes (i : Instr) : List Byte := u32Bytes (encode i).toNat

/-- What the decoder reads from the command whose bits are `w` (bits from `nbits` up are 0). -/
def decodeTableWord (nbits w : Nat) : Option Instr :=
  match decodeBytes (u32Bytes (w % 2 ^ nbits)) with
  | .ok (i, _) => some i
  | .error _ => none

end Sys2Proof
end

