-- ==== Sys2Proof/Machine/State.lean ====
section
/-! DEFINITION. The state of the BVE as plain data (10_state.md), the reasons a step of the model can stop, and the state
after reset (10_state.md R41). -/

namespace Sys2Proof.Machine

/-- The stops of the model that are no architectural fault. It has no constructor: every fault of the spec (60_exceptions.md
R300) is a NEXT state, the fault entry of R302, and nobody raises anything else (log entry 14). Safe. -/
inductive Fault where
  deriving DecidableEq, Repr

/-- Why the model refuses an instruction. -/
inductive Refusal where
  /-- An arm of `exec` whose instruction has no meaning yet. No arm raises it: every command is modelled. Safe. -/
  | notModelled (mnemonic : String)
  deriving DecidableEq, Repr

/-- One vector register (10_state.md R20, R24): its bits, index 0 first, and its floor (0 = unset, R21). -/
structure VReg where
  bits : List Bool
  floor : Nat
  deriving DecidableEq, Repr

/-- Eight registers, each with its own name: V0 to V7 or X0 to X7 (10_state.md R20, R25). -/
structure File8 (α : Type) where
  r0 : α
  r1 : α
  r2 : α
  r3 : α
  r4 : α
  r5 : α
  r6 : α
  r7 : α
  deriving DecidableEq, Repr

/-- The causes of 60_exceptions.md R300. -/
inductive Trap where
  | illegal
  | fetchMisaligned
  | fetchRange
  | memRange
  | badFmt
  | overflow
  | capacity
  | range
  deriving DecidableEq, Repr

/-- DMEM as (address, byte) pairs: the bytes written since the last power-on reset. Canonical form: addresses strictly
rising. An unlisted address has no listed value: it reads as a free value (log entry 3). -/
abbrev Memory := List Host.Cell

/-- The widths of a host access: every whole number of bytes has its one name. 8, 16 and 32 bits are the widths of
20_memory.md R61; the others are those that 10_state.md R38 calls "another width" (log entry 17). -/
inductive Width where
  | w8
  | w16
  | w24
  | w32
  /-- 5 + `more` bytes: 40 bits and wider (64 bits are `wider 3`). -/
  | wider (more : Nat)
  deriving DecidableEq, Repr

/-- A host access at a window offset (20_memory.md R61). A write of up to 32 bits carries its data in the low bits (log entry
16); what a wider write carries has no effect that the spec gives (log entry 17). -/
inductive HostAccess where
  | read (off : Word) (width : Width)
  | write (off : Word) (width : Width) (data : Word)
  deriving DecidableEq, Repr

/-- What the outside world does to the block: a host access, or a change of the `rst` input (70_reset_and_hazards.md R340). -/
inductive HostEvent where
  | access (a : HostAccess)
  | rstAssert
  | rstRelease
  deriving DecidableEq, Repr

/-- An event and how many steps of the block pass before it arrives (log entry 1). -/
structure Arrival where
  delay : Nat
  event : HostEvent
  deriving DecidableEq, Repr

/-- The answer to a completed host read: the number whose little-endian bytes are the bytes read (20_memory.md R63), which is
as wide as the access (log entry 16). -/
structure Reply where
  access : HostAccess
  data : Nat
  deriving DecidableEq, Repr

/-- The state of the block (10_state.md; INVENTORY.md, State). -/
structure State where
  /-- The parameters of this machine (00_scope.md R6); no step changes them (log entry 2). -/
  cfg : Config
  /-- V0 to V7 (10_state.md R20). -/
  v : File8 VReg
  /-- X0 to X7 (10_state.md R25). -/
  x : File8 Scalar
  /-- PC (10_state.md R27, R35). -/
  pc : Word
  /-- STATUS.BUSY: the engine is RUNNING (10_state.md R34, R39). -/
  busy : Bool
  /-- STATUS.DONE (10_state.md R34). -/
  done : Bool
  /-- STATUS.FAULT (10_state.md R34). -/
  fault : Bool
  /-- STATUS.FCODE: `none` is code 0x00 (10_state.md R34, 60_exceptions.md R300). -/
  fcode : Option Trap
  /-- CTRL.IRQEN (10_state.md R33). -/
  irqEn : Bool
  /-- FPC (10_state.md R36). -/
  fpc : Word
  /-- FINFO (10_state.md R36). -/
  finfo : Word
  /-- FINST (10_state.md R36). -/
  finst : Word
  /-- DMEM (20_memory.md R60). -/
  mem : Memory
  /-- The host accesses stalled behind BUSY, oldest first (20_memory.md R68). -/
  held : List HostAccess
  /-- The level of the `rst` input (70_reset_and_hazards.md R340). -/
  rst : Bool
  /-- The MODEL's own: what the host and the platform will do, in order (log entry 1). -/
  inbox : List Arrival
  /-- The MODEL's own: the answers to host reads, oldest first (log entry 1). -/
  replies : List Reply
  /-- The MODEL's own: the number of power-on resets, the argument of `Config.powerOnDmem` (log entry 3). -/
  powerOns : Nat
  /-- The MODEL's own: the number of soft resets, the argument of `Config.cutShortStored` (log entry 4). -/
  softResets : Nat
  /-- The MODEL's own: the number of host writes to DMEM of a width that R61 does not give, the argument of
  `Config.otherWidthStored` (log entry 17). -/
  otherWrites : Nat
  deriving DecidableEq, Repr

/-- A vector register after reset: "[] (empty, len 0)", floor "0 (unset)" (10_state.md R41). -/
def VReg.empty : VReg := { bits := [], floor := 0 }

/-- The machine of parameters `c` right after a power-on reset, with the host silent (10_state.md R41). -/
def State.resetWith (c : Config) : State where
  cfg := c
  v := ⟨.empty, .empty, .empty, .empty, .empty, .empty, .empty, .empty⟩
  x := ⟨0, 0, 0, 0, 0, 0, 0, 0⟩
  pc := 0
  busy := false
  done := false
  fault := false
  fcode := none
  irqEn := false
  fpc := 0
  finfo := 0
  finst := 0
  mem := []
  held := []
  rst := false
  inbox := []
  replies := []
  powerOns := 0
  softResets := 0
  otherWrites := 0

/-- The machine right after reset (10_state.md R41), at the default parameters (00_scope.md R6). -/
def State.reset : State := State.resetWith Config.default

end Sys2Proof.Machine
end

