-- ==== Sys2Proof/Machine/Ops.lean ====
section
/-! DEFINITION. The named operations over registers and memory: register reads and writes, DMEM reads and writes
(20_memory.md R62), completing a command, taking a fault (60_exceptions.md R302) and the return from one (R308). -/

namespace Sys2Proof.Machine

/-- The outcome of a command or a step. -/
abbrev Result := Host.Outcome State Fault Refusal

/-- Register number `i` of a file. -/
def File8.get {α : Type} (f : File8 α) (i : Fin 8) : α :=
  match i with
  | 0 => f.r0
  | 1 => f.r1
  | 2 => f.r2
  | 3 => f.r3
  | 4 => f.r4
  | 5 => f.r5
  | 6 => f.r6
  | 7 => f.r7

/-- The file with register number `i` holding `a`. -/
def File8.set {α : Type} (f : File8 α) (i : Fin 8) (a : α) : File8 α :=
  match i with
  | 0 => { f with r0 := a }
  | 1 => { f with r1 := a }
  | 2 => { f with r2 := a }
  | 3 => { f with r3 := a }
  | 4 => { f with r4 := a }
  | 5 => { f with r5 := a }
  | 6 => { f with r6 := a }
  | 7 => { f with r7 := a }

/-- `x[i]` (00_scope.md R9), as the unsigned integer it holds (R10). -/
def State.xNat (s : State) (i : XIx) : Nat := (s.x.get i).toNat

/-- `x[i] <- n` (00_scope.md R9); every value a rule writes is below 2^64. -/
def State.setX (s : State) (i : XIx) (n : Nat) : State := { s with x := s.x.set i (BitVec.ofNat 64 n) }

/-- `V[i] <- r` (00_scope.md R9). -/
def State.setV (s : State) (i : VIx) (r : VReg) : State := { s with v := s.v.set i r }

/-- `sat32` (00_scope.md R9). -/
def sat32 (n : Nat) : Word := BitVec.ofNat 32 (min n (2 ^ 32 - 1))

/-- InRange (20_memory.md R62): exact integers, no wrap; a zero-length range is always in range. -/
abbrev InRange (c : Config) (a n : Nat) : Prop := n = 0 ∨ a + n ≤ c.dmemBytes

/-- The canonical form of a memory: addresses strictly rising. -/
abbrev Memory.wf (m : Memory) : Prop := m.Pairwise (fun c d => c.1 < d.1)

/-- The byte listed for an address, if one has been written since the last power-on reset. -/
def Memory.listed (m : Memory) (a : Nat) : Option Byte := List.lookup a m

/-- The cells of consecutive bytes from address `a` up. -/
def Memory.cells : Nat → List Byte → Memory
  | _, [] => []
  | a, b :: bs => (a, b) :: Memory.cells (a + 1) bs

/-- `m` with the bytes `bs` stored from address `a` up. -/
def Memory.store (m : Memory) (a : Nat) (bs : List Byte) : Memory :=
  m.filter (fun c => c.1 < a) ++ Memory.cells a bs ++ m.filter (fun c => a + bs.length ≤ c.1)

/-- What DMEM address `a` reads as: the byte written there, or the free power-on content (70_reset_and_hazards.md R342,
log entry 3). -/
def State.byteAt (s : State) (a : Nat) : Byte := (Memory.listed s.mem a).getD (Config.powerOnDmem s.powerOns a)

/-- MemRead (20_memory.md R62). -/
def State.memRead (s : State) (a n : Nat) : List Byte := (List.range n).map fun j => s.byteAt (a + j)

/-- MemWrite (20_memory.md R62). -/
def State.memWrite (s : State) (a : Nat) (bs : List Byte) : State := { s with mem := Memory.store s.mem a bs }

/-- ReadU32 (20_memory.md R62). -/
def State.readU32 (s : State) (a : Nat) : Nat := leNat (s.memRead a 4)

/-- The command word at PC (45_sequencer.md R280, `w <- ReadU32(a)`). -/
def State.commandWord (s : State) : Word := BitVec.ofNat 32 (s.readU32 s.pc.toNat)

/-- Fault entry (60_exceptions.md R302): the run is over, the fault registers are written, and nothing else changes.
`word` is the command word, or 0 for a fetch fault. FINFO values are saturated (92_eei_decisions.md D41). -/
def State.enterFault (s : State) (f : Trap) (info : Nat) (word : Word) : State :=
  { s with busy := false, fault := true, fcode := some f, fpc := s.pc, finfo := sat32 info, finst := word }

/-- `raise <Fault>(info)` (00_scope.md R9) in a command: the fault is taken with the command word in FINST (log entry 6). -/
def State.raise (s : State) (f : Trap) (info : Nat) : Result := .next (s.enterFault f info s.commandWord)

/-- A command that completes advances PC by 4 (10_state.md R27, 45_sequencer.md R280). -/
def State.complete (s : State) : Result := .next { s with pc := s.pc + 4 }

/-- What an accepted GO does, the return from a fault and the start of a run (60_exceptions.md R308). FPC, FINFO and FINST
are not cleared (10_state.md R36). -/
def State.go (s : State) : State := { s with busy := true, done := false, fault := false, fcode := none }

end Sys2Proof.Machine
end

