-- ==== Sys2Proof/Machine/Operands.lean ====
section
/-! DEFINITION. The operand forms and the delivery of results that the commands share: growing a vector register
(40_bit_store.md R100, R101), WriteResult (R102), Bool and NONE (R103), the source range of an import
(41_codec_import.md, common properties) and the destination range of an export (42_codec_export.md, common properties). -/

namespace Sys2Proof.Machine

/-- `zeros(k)` (00_scope.md R8). -/
def zeros (k : Nat) : List Bool := List.replicate k false

/-- Fill (40_bit_store.md R100): zero-extend to length `t`; never truncates; the floor stays. -/
def VReg.fill (r : VReg) (t : Nat) : VReg :=
  if r.bits.length < t then { r with bits := r.bits ++ zeros (t - r.bits.length) } else r

/-- Cover (40_bit_store.md R101): make index `k` exist, and restore the floor. -/
def VReg.cover (r : VReg) (k : Nat) : VReg := r.fill (max (k + 1) r.floor)

/-- Bool (40_bit_store.md R103): the coercion by truthiness. -/
def truthy (n : Nat) : Bool := n != 0

/-- NONE (40_bit_store.md R103). -/
def noneValue : Nat := 2 ^ 64 - 1

/-- WriteResult (40_bit_store.md R102): a plain sequence, floor 0. -/
def State.writeResult (s : State) (d : VIx) (bits : List Bool) : State := s.setV d { bits := bits, floor := 0 }

/-- The bytes of a source range, once the whole range is inside DMEM (20_memory.md R62); else MEM_RANGE with the start
address (60_exceptions.md R301). -/
def State.fromSource (s : State) (a n : Nat) (use : List Byte → Result) : Result :=
  if InRange s.cfg a n then use (s.memRead a n) else s.raise .memRange a

/-- A memory export (42_codec_export.md, common properties): the whole destination range is checked, then the bytes are
written and `rd` receives the count of elements. -/
def State.toDest (s : State) (rd : XIx) (a : Nat) (bs : List Byte) (count : Nat) : Result :=
  if InRange s.cfg a bs.length then ((s.memWrite a bs).setX rd count).complete else s.raise .memRange a

/-- A number inside the numeric domain (00_scope.md R6, NUMBITS), else OVERFLOW(0) (60_exceptions.md R301). -/
def State.inDomain (s : State) (n : Nat) (use : Nat → Result) : Result :=
  if 2 ^ s.cfg.numBits ≤ n then s.raise .overflow 0 else use n

/-- A length a vector register may take, else CAPACITY with the needed length (60_exceptions.md R301). -/
def State.inCapacity (s : State) (n : Nat) (use : Result) : Result :=
  if s.cfg.maxLen < n then s.raise .capacity n else use

end Sys2Proof.Machine
end

