-- ==== Sys2Proof/Machine/BitStore.lean ====
section
/-! DEFINITION. The bit store commands (40_bit_store.md R104 to R117). None of them touches DMEM. -/

namespace Sys2Proof.Machine

/-- FILL (40_bit_store.md R104). -/
def execFill (rd : VIx) (ra : XIx) (s : State) : Result :=
  s.inCapacity (s.xNat ra) (s.setV rd ((s.v.get rd).fill (s.xNat ra))).complete

/-- SET (40_bit_store.md R105): cover the index, then write the bit. -/
def execSet (rd : VIx) (ra rb : XIx) (s : State) : Result :=
  let k := s.xNat ra
  let r := (s.v.get rd).cover k
  s.inCapacity (k + 1) (s.setV rd { r with bits := r.bits.set k (truthy (s.xNat rb)) }).complete

/-- GET (40_bit_store.md R106): the read covers the index, so it may grow the source register. -/
def execGet (rd : XIx) (ra : VIx) (rb : XIx) (s : State) : Result :=
  let k := s.xNat rb
  let r := (s.v.get ra).cover k
  s.inCapacity (k + 1) ((s.setV ra r).setX rd (r.bits.getD k false).toNat).complete

/-- CLR (40_bit_store.md R107): all bits are discarded and the floor re-applied. -/
def execClr (rd : VIx) (s : State) : Result :=
  let r := s.v.get rd
  (s.setV rd { r with bits := zeros r.floor }).complete

/-- CLONE (40_bit_store.md R108): the bits, and no floor. -/
def execClone (rd ra : VIx) (s : State) : Result :=
  (s.setV rd { bits := (s.v.get ra).bits, floor := 0 }).complete

/-- SETV (40_bit_store.md R109): the bits are replaced, the destination's floor is kept and re-applied. -/
def execSetv (rd ra : VIx) (s : State) : Result :=
  let r : VReg := { s.v.get rd with bits := (s.v.get ra).bits }
  (s.setV rd (r.fill r.floor)).complete

/-- EQ (40_bit_store.md R110): same length and same bit at every index; floors are not compared. -/
def execEq (rd : XIx) (ra rb : VIx) (s : State) : Result :=
  (s.setX rd (if (s.v.get ra).bits = (s.v.get rb).bits then 1 else 0)).complete

/-- PUSH (40_bit_store.md R111): append at index len; the floor is not applied. -/
def execPush (rd : VIx) (ra : XIx) (s : State) : Result :=
  let r := s.v.get rd
  s.inCapacity (r.bits.length + 1) (s.setV rd { r with bits := r.bits ++ [truthy (s.xNat ra)] }).complete

/-- POP (40_bit_store.md R112): remove the last bit, or answer NONE for an empty vector. -/
def execPop (rd : XIx) (ra : VIx) (s : State) : Result :=
  let r := s.v.get ra
  match r.bits.getLast? with
  | none => (s.setX rd noneValue).complete
  | some b => ((s.setV ra { r with bits := r.bits.dropLast }).setX rd b.toNat).complete

/-- BREV (40_bit_store.md R113): reverse the element order in place. -/
def execBrev (rd : VIx) (s : State) : Result :=
  let r := s.v.get rd
  (s.setV rd { r with bits := r.bits.reverse }).complete

/-- IDXOF (40_bit_store.md R114): the least index that holds the value; a value other than 0 and 1 never matches. -/
def execIdxof (rd : XIx) (ra : VIx) (rb : XIx) (s : State) : Result :=
  let n := s.xNat rb
  if n ≤ 1 then
    match (s.v.get ra).bits.findIdx? (fun b => b.toNat == n) with
    | some i => (s.setX rd i).complete
    | none => (s.setX rd noneValue).complete
  else (s.setX rd noneValue).complete

/-- SLICE (40_bit_store.md R115): begin and end are clamped to the length; the result has floor 0. -/
def execSlice (rd ra : VIx) (rb rc : XIx) (s : State) : Result :=
  let bits := (s.v.get ra).bits
  let b := min (s.xNat rb) bits.length
  let e := min (s.xNat rc) bits.length
  (s.writeResult rd (if b < e then (bits.take e).drop b else [])).complete

/-- LEN (40_bit_store.md R116). -/
def execLen (rd : XIx) (ra : VIx) (s : State) : Result := (s.setX rd (s.v.get ra).bits.length).complete

/-- SFLR (40_bit_store.md R117): set the floor, then zero-extend to it. -/
def execSflr (rd : VIx) (ra : XIx) (s : State) : Result :=
  let f := s.xNat ra
  s.inCapacity f (s.setV rd (({ s.v.get rd with floor := f } : VReg).fill f)).complete

end Sys2Proof.Machine
end

