-- ==== Sys2Proof/Machine/Codec.lean ====
section
/-! DEFINITION. The shared definitions of the codec: numbers and digits (41_codec_import.md R150 to R154,
42_codec_export.md R200, R202), octet alignment (R151, R152), byte groups (R201) and text. -/

namespace Sys2Proof.Machine

/-- The digits of `v` in `base`, least significant first, `fuel` of them at most: the loop "push `value mod 2`,
`value = floor(value/2)`, until value is 0" (41_codec_import.md R150), in any base. -/
def digitLoop (base : Nat) : Nat → Nat → List Nat
  | 0, _ => []
  | fuel + 1, v => if v = 0 then [] else (v % base) :: digitLoop base fuel (v / base)

/-- All the digits of `v`, least significant first; none for 0. A number has no more digits, in a base of at least 2, than
its bit length, which bounds the loop. -/
def digitsOf (base v : Nat) : List Nat := digitLoop base (Nat.log2 v + 1) v

/-- The value of digits, most significant first (41_codec_import.md R153, R154). -/
def digitsValue (base : Nat) (ds : List Nat) : Nat := ds.foldl (fun acc d => acc * base + d) 0

/-- LSBDigits (41_codec_import.md R150). -/
def lsbDigits (v : Nat) : List Bool := (digitsOf 2 v).map (· == 1)

/-- octet (41_codec_import.md R151). -/
def octetAlign (s : List Bool) : List Bool :=
  if 0 < s.length ∧ s.length % 8 = 0 then s else s ++ zeros (8 - s.length % 8)

/-- OctetDigits (41_codec_import.md R152). -/
def octetDigits (v : Nat) : List Bool := (octetAlign (lsbDigits v)).reverse

/-- The value of an ASCII decimal digit (41_codec_import.md R153). -/
def decVal (b : Byte) : Option Nat :=
  let n := b.toNat
  if 0x30 ≤ n ∧ n ≤ 0x39 then some (n - 0x30) else none

/-- HexVal of an ASCII hexadecimal digit of either case (41_codec_import.md R154). -/
def hexVal (b : Byte) : Option Nat :=
  let n := b.toNat
  if 0x30 ≤ n ∧ n ≤ 0x39 then some (n - 0x30)
  else if 0x61 ≤ n ∧ n ≤ 0x66 then some (n - 0x61 + 10)
  else if 0x41 ≤ n ∧ n ≤ 0x46 then some (n - 0x41 + 10)
  else none

/-- The digits of text, or the index of the first byte that is none, counted from `j`. -/
def readDigits (val : Byte → Option Nat) : Nat → List Byte → Except Nat (List Nat)
  | _, [] => .ok []
  | j, b :: bs =>
    match val b with
    | none => .error j
    | some d =>
      match readDigits val (j + 1) bs with
      | .ok ds => .ok (d :: ds)
      | .error k => .error k

/-- The value of text from index `j` on, as digits of `base`, or the FINFO of its BADFMT: the string length when there are
no digits, else the index of the first bad byte. -/
def parseDigits (val : Byte → Option Nat) (base j : Nat) (bs : List Byte) : Except Nat Nat :=
  if bs = [] then .error j
  else
    match readDigits val j bs with
    | .ok ds => .ok (digitsValue base ds)
    | .error k => .error k

/-- ParseDec (41_codec_import.md R153). -/
def parseDec (c : List Byte) : Except Nat Nat := parseDigits decVal 10 0 c

/-- The length of the `0x` prefix: 2 or 0. Only lowercase `0x` is a prefix (41_codec_import.md R154). -/
def hexPrefix (c : List Byte) : Nat := if c.take 2 = [0x30#8, 0x78#8] then 2 else 0

/-- ParseHex (41_codec_import.md R154). -/
def parseHex (c : List Byte) : Except Nat Nat := parseDigits hexVal 16 (hexPrefix c) (c.drop (hexPrefix c))

/-- The decimal digits of `v`, most significant first, "0" for 0 (41_codec_import.md R166). -/
def decimalDigits (v : Nat) : List Nat := if v = 0 then [0] else (digitsOf 10 v).reverse

/-- The decimal digits of `v` re-read as hexadecimal digits (41_codec_import.md R166). -/
def rereadAsHex (v : Nat) : Nat := digitsValue 16 (decimalDigits v)

/-- ToNumber (42_codec_export.md R200): index 0 is least significant. -/
def toNumber (s : List Bool) : Nat := s.foldr (fun b acc => b.toNat + 2 * acc) 0

/-- Consecutive groups of `n` elements, the last one shorter where the length asks for it; `fuel` groups at most. -/
def chunkLoop {α : Type} (n : Nat) : Nat → List α → List (List α)
  | 0, _ => []
  | fuel + 1, s => if s.isEmpty then [] else s.take n :: chunkLoop n fuel (s.drop n)

/-- All the consecutive groups of `n` elements of `s`. -/
def chunks {α : Type} (n : Nat) (s : List α) : List (List α) := chunkLoop n s.length s

/-- The value of one group of bits read as big-endian digits, `v <- v * 2 + g[j]` (42_codec_export.md R201). -/
def groupValue (g : List Bool) : Nat := g.foldl (fun v b => v * 2 + b.toNat) 0

/-- ByteGroups (42_codec_export.md R201): a final partial group is not zero-padded. -/
def byteGroups (s : List Bool) : List Byte := (chunks 8 s).map fun g => BitVec.ofNat 8 (groupValue g)

/-- The ASCII code of a lowercase hexadecimal digit (42_codec_export.md R202). -/
def hexChar (d : Nat) : Byte := BitVec.ofNat 8 (if d < 10 then 0x30 + d else 0x61 + (d - 10))

/-- HexText (42_codec_export.md R202). -/
def hexText (v : Nat) : List Byte := if v = 0 then [0x30#8] else (digitsOf 16 v).reverse.map hexChar

/-- The ASCII code of a binary digit (20_memory.md R63). -/
def bitChar (b : Bool) : Byte := BitVec.ofNat 8 (0x30 + b.toNat)

/-- A bit as a byte 0 or 1 (20_memory.md R63, raw bit sequence). -/
def bitByte (b : Bool) : Byte := BitVec.ofNat 8 b.toNat

/-- The indices that hold a 1, ascending, counted from `i` (42_codec_export.md R203). -/
def offsetsFrom : Nat → List Bool → List Nat
  | _, [] => []
  | i, b :: bs => if b then i :: offsetsFrom (i + 1) bs else offsetsFrom (i + 1) bs

/-- One step of FOFF (41_codec_import.md R163): cover the offset with floor 0, then set the bit. -/
def setOffset (s : List Bool) (o : Nat) : List Bool := (s ++ zeros (o + 1 - s.length)).set o true

end Sys2Proof.Machine
end

