-- ==== Sys2Proof/Machine/Cardinality.lean ====
section
/-! DEFINITION. The cardinality commands (44_cardinality.md R261 to R263). -/

namespace Sys2Proof.Machine

/-- popcount32 (44_cardinality.md R260): the 1 bits among bits 31:0. -/
def popcount32 (w : Nat) : Nat := (List.range 32).countP fun i => w.testBit i

/-- POPC32 (44_cardinality.md R261): RANGE when the operand does not fit in 32 bits. -/
def execPopc32 (rd ra : XIx) (s : State) : Result :=
  let w := s.xNat ra
  if 2 ^ 32 ≤ w then s.raise .range 0 else (s.setX rd (popcount32 w)).complete

/-- POPCV (44_cardinality.md R262): a linear scan. -/
def execPopcv (rd : XIx) (ra : VIx) (s : State) : Result :=
  (s.setX rd ((s.v.get ra).bits.countP id)).complete

/-- POPCB (44_cardinality.md R263): groups of four bytes, the first least significant, missing bytes read as 0. -/
def execPopcb (rd ra rb : XIx) (s : State) : Result :=
  s.fromSource (s.xNat ra) (s.xNat rb) fun c =>
    (s.setX rd ((chunks 4 c).map fun g => popcount32 (leNat g)).sum).complete

end Sys2Proof.Machine
end

