-- ==== Sys2Proof/Machine/Export.lean ====
section
/-! DEFINITION. The codec export commands (42_codec_export.md R203 to R208). The source register never changes; the
destination address is read before rd is written (70_reset_and_hazards.md R346). -/

namespace Sys2Proof.Machine

/-- TOOFF (42_codec_export.md R203): the offsets of the set bits, ascending, as little-endian u32 elements. -/
def execTooff (rd : XIx) (ra : VIx) (rb : XIx) (s : State) : Result :=
  let offs := offsetsFrom 0 (s.v.get ra).bits
  s.toDest rd (s.xNat rb) (offs.flatMap u32Bytes) offs.length

/-- TOBYTES (42_codec_export.md R204). -/
def execTobytes (rd : XIx) (ra : VIx) (rb : XIx) (s : State) : Result :=
  let bs := byteGroups (s.v.get ra).bits
  s.toDest rd (s.xNat rb) bs bs.length

/-- TONUM (42_codec_export.md R205). -/
def execTonum (rd : XIx) (ra : VIx) (s : State) : Result :=
  s.inDomain (toNumber (s.v.get ra).bits) fun v => (s.setX rd v).complete

/-- TOHEX (42_codec_export.md R206): OVERFLOW, then the destination range. -/
def execTohex (rd : XIx) (ra : VIx) (rb : XIx) (s : State) : Result :=
  s.inDomain (toNumber (s.v.get ra).bits) fun v =>
    let t := hexText v
    s.toDest rd (s.xNat rb) t t.length

/-- TOSTR (42_codec_export.md R207): most significant digit first. -/
def execTostr (rd : XIx) (ra : VIx) (rb : XIx) (s : State) : Result :=
  let t := (s.v.get ra).bits.reverse.map bitChar
  s.toDest rd (s.xNat rb) t t.length

/-- TOBITS (42_codec_export.md R208): one byte for each bit, index 0 first. -/
def execTobits (rd : XIx) (ra : VIx) (rb : XIx) (s : State) : Result :=
  let t := (s.v.get ra).bits.map bitByte
  s.toDest rd (s.xNat rb) t t.length

end Sys2Proof.Machine
end

