-- ==== Sys2Proof/Machine/Import.lean ====
section
/-! DEFINITION. The codec import commands (41_codec_import.md R156 to R167). Faults are checked in the order of
60_exceptions.md R304: operand domain, source MEM_RANGE, BADFMT, OVERFLOW of the computed value, CAPACITY. -/

namespace Sys2Proof.Machine

/-- NEW (41_codec_import.md R156). -/
def execNew (rd : VIx) (s : State) : Result := (s.writeResult rd []).complete

/-- FBIN (41_codec_import.md R157): the rightmost character becomes index 0. -/
def execFbin (rd : VIx) (ra rb : XIx) (s : State) : Result :=
  let n := s.xNat rb
  s.fromSource (s.xNat ra) n fun c =>
    match c.findIdx? (fun b => b != 0x30#8 && b != 0x31#8) with
    | some j => s.raise .badFmt j
    | none => s.inCapacity n (s.writeResult rd (c.reverse.map (· == 0x31#8))).complete

/-- FNUM (41_codec_import.md R158). -/
def execFnum (rd : VIx) (ra : XIx) (s : State) : Result :=
  s.inDomain (s.xNat ra) fun v => (s.writeResult rd (lsbDigits v)).complete

/-- FNUMO (41_codec_import.md R159). -/
def execFnumo (rd : VIx) (ra : XIx) (s : State) : Result :=
  s.inDomain (s.xNat ra) fun v => (s.writeResult rd (octetDigits v)).complete

/-- LDBITS (41_codec_import.md R160): one byte, 0 or 1, for each bit. -/
def execLdbits (rd : VIx) (ra rb : XIx) (s : State) : Result :=
  let n := s.xNat rb
  s.fromSource (s.xNat ra) n fun c =>
    match c.findIdx? (fun b => 1 < b.toNat) with
    | some j => s.raise .badFmt j
    | none => s.inCapacity n (s.writeResult rd (c.map (· == 1#8))).complete

/-- FINTS (41_codec_import.md R161): each little-endian u32 element becomes its octet-aligned digits, in array order. -/
def execFints (rd : VIx) (ra rb : XIx) (s : State) : Result :=
  s.fromSource (s.xNat ra) (4 * s.xNat rb) fun c =>
    let bits := (chunks 4 c).flatMap fun e => octetDigits (leNat e)
    s.inCapacity bits.length (s.writeResult rd bits).complete

/-- OCTET (41_codec_import.md R162). -/
def execOctet (rd ra : VIx) (s : State) : Result := (s.writeResult rd (octetAlign (s.v.get ra).bits)).complete

/-- FOFF (41_codec_import.md R163): the first offset at or above MAXLEN, in list order, gives the CAPACITY. -/
def execFoff (rd : VIx) (ra rb : XIx) (s : State) : Result :=
  s.fromSource (s.xNat ra) (4 * s.xNat rb) fun c =>
    let offs := (chunks 4 c).map leNat
    match offs.find? (fun o => s.cfg.maxLen ≤ o) with
    | some o => s.raise .capacity (o + 1)
    | none => (s.writeResult rd (offs.foldl setOffset [])).complete

/-- FDEC (41_codec_import.md R164). -/
def execFdec (rd : VIx) (ra rb : XIx) (s : State) : Result :=
  s.fromSource (s.xNat ra) (s.xNat rb) fun c =>
    match parseDec c with
    | .error j => s.raise .badFmt j
    | .ok v => s.inDomain v fun v => (s.writeResult rd (lsbDigits v)).complete

/-- FHEX (41_codec_import.md R165). -/
def execFhex (rd : VIx) (ra rb : XIx) (s : State) : Result :=
  s.fromSource (s.xNat ra) (s.xNat rb) fun c =>
    match parseHex c with
    | .error j => s.raise .badFmt j
    | .ok v => s.inDomain v fun v => (s.writeResult rd (lsbDigits v)).complete

/-- FHEXN (41_codec_import.md R166): the operand's domain, then the re-read value's. -/
def execFhexn (rd : VIx) (ra : XIx) (s : State) : Result :=
  s.inDomain (s.xNat ra) fun v => s.inDomain (rereadAsHex v) fun h => (s.writeResult rd (lsbDigits h)).complete

/-- FBYTES (41_codec_import.md R167): exactly 8 bits for each byte, bit 7 first. -/
def execFbytes (rd : VIx) (ra rb : XIx) (s : State) : Result :=
  let n := s.xNat rb
  s.fromSource (s.xNat ra) n fun c =>
    s.inCapacity (8 * n) (s.writeResult rd (c.flatMap fun b => octetDigits b.toNat)).complete

end Sys2Proof.Machine
end

