-- ==== Sys2Proof/Machine/Sequencer.lean ====
section
/-! DEFINITION. The sequencer and scalar commands (45_sequencer.md R281 to R284). -/

namespace Sys2Proof.Machine

/-- HALT (45_sequencer.md R281): the run ends with DONE, and PC is left at the next command. -/
def execHalt (s : State) : Result := ({ s with busy := false, done := true } : State).complete

/-- NOP (45_sequencer.md R282). -/
def execNop (s : State) : Result := s.complete

/-- LI (45_sequencer.md R283): the immediate is zero-extended. -/
def execLi (rd : XIx) (imm : BitVec 16) (s : State) : Result := (s.setX rd imm.toNat).complete

/-- LIS (45_sequencer.md R284): the register moves up 16 bits, mod 2^64, and takes the immediate in its low bits. -/
def execLis (rd : XIx) (imm : BitVec 16) (s : State) : Result :=
  (s.setX rd ((s.xNat rd * 2 ^ 16 + imm.toNat) % 2 ^ 64)).complete

end Sys2Proof.Machine
end

