-- ==== Sys2Proof/Machine/SetAlgebra.lean ====
section
/-! DEFINITION. The set algebra commands (43_set_algebra.md R240 to R245): the per-index vote and its three decisions, and
NOT. -/

namespace Sys2Proof.Machine

/-- L of Reconcile (43_set_algebra.md R240): the length of the longest operand. -/
def longest (ops : List (List Bool)) : Nat := ops.foldl (fun l s => max l s.length) 0

/-- count[i] of Reconcile (43_set_algebra.md R240): the operands that have the index and hold a 1 there. -/
def votes (ops : List (List Bool)) (i : Nat) : Nat := ops.countP fun s => s[i]? == some true

/-- The result of an operator that decides each index from (count[i], N) (43_set_algebra.md R240, R241). -/
def reconcile (decision : Nat → Nat → Bool) (ops : List (List Bool)) : List Bool :=
  (List.range (longest ops)).map fun i => decision (votes ops i) ops.length

/-- AND's decision (43_set_algebra.md R242): every operand, the shorter ones counted, has a 1. -/
def andDecision (count n : Nat) : Bool := count == n

/-- OR's decision (43_set_algebra.md R243): at least one operand has a 1. -/
def orDecision (count _n : Nat) : Bool := 1 ≤ count

/-- XOR's decision (43_set_algebra.md R244): exactly one operand, or all of them, have a 1; it is no parity. -/
def xorDecision (count n : Nat) : Bool := count == 1 || count == n

/-- The operand list of a format L command (30_encoding.md R84), read before the destination is written. -/
def State.operands (s : State) (ops : List VIx) : List (List Bool) := ops.map fun k => (s.v.get k).bits

/-- AND (43_set_algebra.md R242). -/
def execAnd (rd : VIx) (ops : List VIx) (s : State) : Result :=
  (s.writeResult rd (reconcile andDecision (s.operands ops))).complete

/-- OR (43_set_algebra.md R243). -/
def execOr (rd : VIx) (ops : List VIx) (s : State) : Result :=
  (s.writeResult rd (reconcile orDecision (s.operands ops))).complete

/-- XOR (43_set_algebra.md R244). -/
def execXor (rd : VIx) (ops : List VIx) (s : State) : Result :=
  (s.writeResult rd (reconcile xorDecision (s.operands ops))).complete

/-- NOT (43_set_algebra.md R245). -/
def execNot (rd ra : VIx) (s : State) : Result := (s.writeResult rd ((s.v.get ra).bits.map (!·))).complete

end Sys2Proof.Machine
end

