-- ==== Sys2Proof/Machine/Dispatch.lean ====
section
/-! DEFINITION. The dispatch from a decoded command to its meaning: Execute(d) of 45_sequencer.md R280, with the advance of
PC or the fault entry. -/

namespace Sys2Proof.Machine

def exec (i : Instr) (s : State) : Host.Outcome State Fault Refusal :=
  match i with
  | .halt => Sys2Proof.Machine.execHalt s
  | .nop => Sys2Proof.Machine.execNop s
  | .li rd imm => Sys2Proof.Machine.execLi rd imm s
  | .lis rd imm => Sys2Proof.Machine.execLis rd imm s
  | .fill rd ra => Sys2Proof.Machine.execFill rd ra s
  | .set rd ra rb => Sys2Proof.Machine.execSet rd ra rb s
  | .setv rd ra => Sys2Proof.Machine.execSetv rd ra s
  | .get rd ra rb => Sys2Proof.Machine.execGet rd ra rb s
  | .clr rd => Sys2Proof.Machine.execClr rd s
  | .clone rd ra => Sys2Proof.Machine.execClone rd ra s
  | .eq rd ra rb => Sys2Proof.Machine.execEq rd ra rb s
  | .push rd ra => Sys2Proof.Machine.execPush rd ra s
  | .pop rd ra => Sys2Proof.Machine.execPop rd ra s
  | .brev rd => Sys2Proof.Machine.execBrev rd s
  | .idxof rd ra rb => Sys2Proof.Machine.execIdxof rd ra rb s
  | .slice rd ra rb rc => Sys2Proof.Machine.execSlice rd ra rb rc s
  | .len rd ra => Sys2Proof.Machine.execLen rd ra s
  | .sflr rd ra => Sys2Proof.Machine.execSflr rd ra s
  | .new rd => Sys2Proof.Machine.execNew rd s
  | .fbin rd ra rb => Sys2Proof.Machine.execFbin rd ra rb s
  | .fnum rd ra => Sys2Proof.Machine.execFnum rd ra s
  | .fnumo rd ra => Sys2Proof.Machine.execFnumo rd ra s
  | .ldbits rd ra rb => Sys2Proof.Machine.execLdbits rd ra rb s
  | .fints rd ra rb => Sys2Proof.Machine.execFints rd ra rb s
  | .octet rd ra => Sys2Proof.Machine.execOctet rd ra s
  | .foff rd ra rb => Sys2Proof.Machine.execFoff rd ra rb s
  | .fdec rd ra rb => Sys2Proof.Machine.execFdec rd ra rb s
  | .fhex rd ra rb => Sys2Proof.Machine.execFhex rd ra rb s
  | .fhexn rd ra => Sys2Proof.Machine.execFhexn rd ra s
  | .fbytes rd ra rb => Sys2Proof.Machine.execFbytes rd ra rb s
  | .tooff rd ra rb => Sys2Proof.Machine.execTooff rd ra rb s
  | .tobytes rd ra rb => Sys2Proof.Machine.execTobytes rd ra rb s
  | .tonum rd ra => Sys2Proof.Machine.execTonum rd ra s
  | .tohex rd ra rb => Sys2Proof.Machine.execTohex rd ra rb s
  | .tostr rd ra rb => Sys2Proof.Machine.execTostr rd ra rb s
  | .tobits rd ra rb => Sys2Proof.Machine.execTobits rd ra rb s
  | .and rd ops => Sys2Proof.Machine.execAnd rd ops s
  | .or rd ops => Sys2Proof.Machine.execOr rd ops s
  | .xor rd ops => Sys2Proof.Machine.execXor rd ops s
  | .not rd ra => Sys2Proof.Machine.execNot rd ra s
  | .popc32 rd ra => Sys2Proof.Machine.execPopc32 rd ra s
  | .popcv rd ra => Sys2Proof.Machine.execPopcv rd ra s
  | .popcb rd ra rb => Sys2Proof.Machine.execPopcb rd ra rb s

end Sys2Proof.Machine
end

