-- ==== Sys2Proof/Machine/Engine.lean ====
section
/-! DEFINITION. The command cycle (45_sequencer.md R280). -/

namespace Sys2Proof.Machine

/-- Step of 45_sequencer.md R280: fetch at PC, decode, execute. The word is read when the command starts (20_memory.md R70). -/
def engineStep (s : State) : Result :=
  let a := s.pc.toNat
  if a % 4 ≠ 0 then .next (s.enterFault .fetchMisaligned a 0)
  else if s.cfg.dmemBytes < a + 4 then .next (s.enterFault .fetchRange a 0)
  else
    match decode s.commandWord with
    | .error _ => .next (s.enterFault .illegal 0 s.commandWord)
    | .ok i => exec i s

end Sys2Proof.Machine
end

