-- ==== Sys2Proof/Machine/Flags.lean ====
section
/-! DEFINITION. The engine has no flags or condition codes (10_state.md R28). What stands here is the only status there is:
the codes of 60_exceptions.md R300, the STATUS fields of 10_state.md R34 and the interrupt output of 60_exceptions.md R306. -/

namespace Sys2Proof.Machine

/-- The code of a cause (60_exceptions.md R300). -/
def Trap.code : Trap → Nat
  | .illegal => 0x01
  | .fetchMisaligned => 0x02
  | .fetchRange => 0x03
  | .memRange => 0x04
  | .badFmt => 0x05
  | .overflow => 0x06
  | .capacity => 0x07
  | .range => 0x08

/-- STATUS.FCODE: 0 when no fault ended a run since the last GO or reset (60_exceptions.md R300). -/
def State.fcodeNat (s : State) : Nat :=
  match s.fcode with
  | none => 0x00
  | some f => f.code

/-- The interrupt output, a level, and STATUS.IRQ (60_exceptions.md R306). -/
def State.irq (s : State) : Bool := s.irqEn && (s.done || s.fault)

/-- STATUS as the host reads it (10_state.md R34); reserved bits read 0. -/
def State.statusWord (s : State) : Word :=
  BitVec.ofNat 32 (s.busy.toNat + s.done.toNat * 2 + s.fault.toNat * 4 + s.irq.toNat * 8 + s.fcodeNat * 2 ^ 8)

/-- CTRL as the host reads it: GO and SRST read 0 (10_state.md R33). -/
def State.ctrlWord (s : State) : Word := BitVec.ofNat 32 (s.irqEn.toNat * 2)

/-- PARAMS (10_state.md R31). -/
def paramsWord (c : Config) : Word :=
  BitVec.ofNat 32 (Config.nv + Config.nx * 2 ^ 4 + c.numBits * 2 ^ 8 + Config.maxOps * 2 ^ 16 + Config.revision * 2 ^ 24)

end Sys2Proof.Machine
end

