-- ==== Sys2Proof/Machine/HostPort.lean ====
section
/-! DEFINITION. What the outside world can do to the block: the register window (10_state.md R29 to R38), the DMEM window
(20_memory.md R61), stalling behind BUSY (R68), GO, soft reset (70_reset_and_hazards.md R341), the `rst` input (R342); and one
step of the block, which takes what the host and the platform do from `inbox` (log entry 1). -/

namespace Sys2Proof.Machine

/-- The number of bytes of an access. -/
def Width.bytes : Width → Nat
  | .w8 => 1
  | .w16 => 2
  | .w24 => 3
  | .w32 => 4
  | .wider more => 5 + more

/-- A width at which DMEM may be accessed: 8, 16 or 32 bits (20_memory.md R61). -/
def Width.onDmem : Width → Bool
  | .w8 | .w16 | .w32 => true
  | .w24 | .wider _ => false

/-- The first host offset of DMEM (20_memory.md R61). -/
def dmemBase : Nat := 0x10000

/-- The host offset of an access. -/
def HostAccess.off : HostAccess → Nat
  | .read off _ => off.toNat
  | .write off _ _ => off.toNat

/-- The width of an access. -/
def HostAccess.width : HostAccess → Width
  | .read _ w => w
  | .write _ w _ => w

/-- The window offset of a system address, HOST_BASE being that of offset 0 (20_memory.md R67, log entry 11). -/
def windowOffset (systemAddr : Nat) : Option Word :=
  if Config.hostBase ≤ systemAddr ∧ systemAddr < Config.hostBase + 2 ^ 32 then
    some (BitVec.ofNat 32 (systemAddr - Config.hostBase))
  else none

/-- A naturally aligned 32-bit access inside the register window, the only kind defined there (10_state.md R38). -/
abbrev isRegAccess (off : Nat) (w : Width) : Prop := off < dmemBase ∧ w = .w32 ∧ off % 4 = 0

/-- A host offset of a DMEM byte (20_memory.md R61). -/
abbrev inDmemWindow (c : Config) (o : Nat) : Prop := dmemBase ≤ o ∧ o < dmemBase + c.dmemBytes

/-- The registers whose access stalls while BUSY = 1: PC and X0 to X7 (20_memory.md R68, 10_state.md R35, R37). -/
abbrev isStallingReg (off : Nat) : Prop := off = 0x18 ∨ (0x40 ≤ off ∧ off < 0x80)

/-- An access of `w` at `off` reaches a byte of DMEM (20_memory.md R61, log entry 7). -/
def reachesDmem (c : Config) (off : Nat) (w : Width) : Bool :=
  (List.range w.bytes).any fun j => inDmemWindow c (off + j)

/-- An access to DMEM, to X0 to X7 or to PC (20_memory.md R68). Every other access never stalls (log entry 8). -/
def HostAccess.shared (c : Config) (a : HostAccess) : Bool :=
  (isRegAccess a.off a.width && isStallingReg a.off) || reachesDmem c a.off a.width

/-- X[i] bits 31:0 or 63:32, the register at offset 0x40 + 4k: k = 2i, or 2i + 1 (10_state.md R37). -/
def State.xHalf (s : State) (k : Nat) : Word :=
  BitVec.ofNat 32 (s.xNat (Fin.ofNat 8 (k / 2)) / 2 ^ (32 * (k % 2)))

/-- X[i] with one half replaced; the other half is unchanged (10_state.md R37). -/
def State.setXHalf (s : State) (k : Nat) (d : Word) : State :=
  let i : XIx := Fin.ofNat 8 (k / 2)
  let old := s.xNat i
  s.setX i (if k % 2 = 0 then old / 2 ^ 32 * 2 ^ 32 + d.toNat else d.toNat * 2 ^ 32 + old % 2 ^ 32)

/-- The register at an offset (10_state.md R29); an offset that no register occupies reads 0 (R38). -/
def State.readReg (s : State) (off : Nat) : Word :=
  if 0x40 ≤ off ∧ off < 0x80 then s.xHalf ((off - 0x40) / 4)
  else
    match off with
    | 0x00 => Config.idValue
    | 0x04 => paramsWord s.cfg
    | 0x08 => BitVec.ofNat 32 s.cfg.dmemBytes
    | 0x0C => BitVec.ofNat 32 s.cfg.maxLen
    | 0x10 => s.ctrlWord
    | 0x14 => s.statusWord
    | 0x18 => s.pc
    | 0x1C => s.fpc
    | 0x20 => s.finfo
    | 0x24 => s.finst
    | _ => 0

/-- The byte at a host offset outside the registers, as an access of width `w` reads it: DMEM, or 0 (20_memory.md R61,
10_state.md R38, log entry 7). What DMEM answers at another width than R61's is free (log entry 17). -/
def State.windowByte (s : State) (w : Width) (o : Nat) : Byte :=
  if inDmemWindow s.cfg o then
    if w.onDmem then s.byteAt (o - dmemBase) else Config.otherWidthRead s.replies.length (o - dmemBase)
  else 0

/-- What a host read answers, as a number (20_memory.md R61, R63; log entry 16). -/
def State.hostRead (s : State) (off : Nat) (w : Width) : Nat :=
  if isRegAccess off w then (s.readReg off).toNat
  else leNat ((List.range w.bytes).map fun j => s.windowByte w (off + j))

/-- The bytes of `d` from host offset `off` up, stored where the offsets are DMEM's and ignored elsewhere (20_memory.md R61,
log entry 7). -/
def State.writeWindow (s : State) (off : Nat) : List Byte → State
  | [] => s
  | b :: bs =>
    State.writeWindow (if inDmemWindow s.cfg off then s.memWrite (off - dmemBase) [b] else s) (off + 1) bs

/-- The cells that a command cut short was storing, each at its old or its new value by a free choice
(70_reset_and_hazards.md R341, log entry 4). -/
def State.cutShort (s : State) : Memory :=
  match engineStep s with
  | .next t =>
    t.mem.foldl
      (fun m c =>
        if Memory.listed m c.1 = some c.2 then m
        else if Config.cutShortStored s.softResets c.1 then Memory.store m c.1 [c.2]
        else m)
      s.mem
  | _ => s.mem

/-- Soft reset (70_reset_and_hazards.md R341, 10_state.md R41): everything but DMEM takes its reset value; a command in
progress is abandoned. Accesses stalled behind BUSY stay held, and complete against the reset state. -/
def State.softReset (s : State) : State :=
  { State.resetWith s.cfg with
    mem := if s.busy then s.cutShort else s.mem
    held := s.held
    rst := s.rst
    inbox := s.inbox
    replies := s.replies
    powerOns := s.powerOns
    softResets := s.softResets + 1
    otherWrites := s.otherWrites }

/-- The `rst` input is asserted (70_reset_and_hazards.md R342): every state takes its reset value, and the content of DMEM
is unspecified afresh (log entries 3 and 10). -/
def State.powerOnReset (s : State) : State :=
  { State.resetWith s.cfg with
    held := s.held
    rst := true
    inbox := s.inbox
    replies := s.replies
    powerOns := s.powerOns + 1
    softResets := s.softResets
    otherWrites := s.otherWrites }

/-- A CTRL write (10_state.md R33): SRST first, and then GO is ignored; otherwise IRQEN, then GO, which is ignored while the
engine runs. -/
def State.writeCtrl (s : State) (d : Word) : State :=
  if d.getLsbD 2 then s.softReset
  else
    let s' := { s with irqEn := d.getLsbD 1 }
    if d.getLsbD 0 ∧ s.busy = false then s'.go else s'

/-- A STATUS write: DONE and FAULT are cleared by a 1, FCODE is left (10_state.md R34). -/
def State.writeStatus (s : State) (d : Word) : State :=
  { s with done := s.done && !d.getLsbD 1, fault := s.fault && !d.getLsbD 2 }

/-- A register write (10_state.md R29); read-only registers and offsets that no register occupies ignore it (R38). -/
def State.writeReg (s : State) (off : Nat) (d : Word) : State :=
  if 0x40 ≤ off ∧ off < 0x80 then s.setXHalf ((off - 0x40) / 4) d
  else
    match off with
    | 0x10 => s.writeCtrl d
    | 0x14 => s.writeStatus d
    | 0x18 => { s with pc := d }
    | _ => s

/-- A host write of a width that R61 does not give: DMEM's bytes in its range hold free values, and nothing else happens
(10_state.md R38, 20_memory.md R61; log entry 17). -/
def State.writeOtherWidth (s : State) (off : Nat) (w : Width) : State :=
  if reachesDmem s.cfg off w then
    { s.writeWindow off ((List.range w.bytes).map fun j => Config.otherWidthStored s.otherWrites (off + j - dmemBase)) with
      otherWrites := s.otherWrites + 1 }
  else s

/-- A host write (20_memory.md R61, 10_state.md R38). -/
def State.hostWrite (s : State) (off : Nat) (w : Width) (d : Word) : State :=
  if isRegAccess off w then s.writeReg off d
  else if w.onDmem then s.writeWindow off ((u32Bytes d.toNat).take w.bytes)
  else s.writeOtherWidth off w

/-- A host access takes place. -/
def State.perform (s : State) (a : HostAccess) : State :=
  match a with
  | .read off w => { s with replies := s.replies ++ [{ access := a, data := s.hostRead off.toNat w }] }
  | .write off w d => s.hostWrite off.toNat w d

/-- A host access made while `rst` is asserted: ignored, and a read returns 0 (70_reset_and_hazards.md R342). -/
def State.ignore (s : State) (a : HostAccess) : State :=
  match a with
  | .read _ _ => { s with replies := s.replies ++ [{ access := a, data := 0 }] }
  | .write _ _ _ => s

/-- A host access arrives: it is held while BUSY = 1 where it touches shared state (20_memory.md R68). -/
def State.arrive (s : State) (a : HostAccess) : State :=
  if s.rst then s.ignore a
  else if s.busy && a.shared s.cfg then { s with held := s.held ++ [a] }
  else s.perform a

/-- An event of the outside world. -/
def State.event (s : State) (e : HostEvent) : State :=
  match e with
  | .access a => s.arrive a
  | .rstAssert => s.powerOnReset
  | .rstRelease => { s with rst := false }

/-- One step comes nearer to the next arrival. -/
def State.tick (s : State) : State :=
  match s.inbox with
  | [] => s
  | e :: rest => { s with inbox := { e with delay := e.delay - 1 } :: rest }

/-- The event that arrives now, and the arrivals after it. -/
def State.due (s : State) : Option (HostEvent × List Arrival) :=
  match s.inbox with
  | [] => none
  | e :: rest => if e.delay = 0 then some (e.event, rest) else none

/-- The oldest held access, once it may complete: BUSY has become 0 (20_memory.md R68), and `rst` is not asserted (log
entries 9 and 10). -/
def State.release (s : State) : Option (HostAccess × List HostAccess) :=
  if s.busy || s.rst then none
  else
    match s.held with
    | [] => none
    | a :: rest => some (a, rest)

/-- One step of the block: a held access completes; else the event that is due happens; else a running engine executes one
command (45_sequencer.md R280), and an idle one does nothing (70_reset_and_hazards.md R343). -/
def blockStep (s : State) : Result :=
  match s.release with
  | some (a, rest) => .next (({ s with held := rest } : State).perform a)
  | none =>
    match s.due with
    | some (e, rest) => .next (({ s with inbox := rest } : State).event e)
    | none => if s.busy then engineStep s.tick else .next s.tick

/-- Where the next command is fetched: PC, or 0 where no command can stand at PC. -/
def State.fetchAddr (s : State) : Nat :=
  if s.pc.toNat % 4 = 0 ∧ s.pc.toNat + 4 ≤ s.cfg.dmemBytes then s.pc.toNat else 0

/-- A run is started at a command that the host has stored: what the host does by DMEM writes, a PC write and GO
(70_reset_and_hazards.md R343; log entry 5), and then says nothing for now. -/
def State.startAt (s : State) (word : Nat) : State :=
  { (s.memWrite s.fetchAddr (u32Bytes word)).go with pc := BitVec.ofNat 32 s.fetchAddr, inbox := [] }

end Sys2Proof.Machine
end

