-- ==== Sys2Proof/Machine/Step.lean ====
section
/-! DEFINITION. The step of the machine, and a state about to run a given command. -/

namespace Sys2Proof.Machine

/-- One step of the block (Machine/HostPort.lean). -/
def step (s : State) : Host.Outcome State Fault Refusal := blockStep s

/-- `s` with the command whose bits are `w` (bits from `nbits` up are 0) stored where the next command is fetched, and a run
started there, so that the next step runs it (log entry 5). -/
def State.withFetchWord (s : State) (nbits w : Nat) : State := s.startAt (w % 2 ^ nbits)

end Sys2Proof.Machine
end

