-- ==== Sys2Proof/Machine/Assembly.lean ====
section
/-! DEFINITION. The assembler's view of the command set (30_encoding.md R90, R91; 41_codec_import.md R155): the
pseudo-instructions and their expansions, the text of a command, and how the items of a program lie in DMEM. No encoding of its own
belongs to any of these: what runs are the commands they expand to. -/

namespace Sys2Proof.Machine

/-- The pseudo-instructions and aliases of 30_encoding.md R91. -/
inductive Pseudo where
  /-- `cardinality xd, va`, and its aliases `count`, `population`, `bitcount`. -/
  | cardinality (rd : XIx) (ra : VIx)
  /-- `cardinality.u32 xd, xs`. -/
  | cardinalityU32 (rd ra : XIx)
  /-- `cardinality.buf xd, xa, xn`. -/
  | cardinalityBuf (rd ra rb : XIx)
  /-- `intersect vd, vs...`. -/
  | intersect (rd : VIx) (ops : List VIx)
  /-- `union vd, vs...`. -/
  | union (rd : VIx) (ops : List VIx)
  /-- `difference vd, vs...`. -/
  | difference (rd : VIx) (ops : List VIx)
  /-- `reverse vd, va`, which is NOT (91_not_in_source.md N8). -/
  | reverse (rd ra : VIx)
  /-- `reset vd`. -/
  | reset (rd : VIx)
  /-- `li32 xd, imm32`. -/
  | li32 (rd : XIx) (imm : BitVec 32)
  /-- `li64 xd, imm64`. -/
  | li64 (rd : XIx) (imm : BitVec 64)
  /-- `new.<form> vd, <operands>, xf`: an import command and the floor (41_codec_import.md R155). -/
  | newForm (imp : Instr) (vd : VIx) (xf : XIx)
  deriving DecidableEq, Repr

/-- The 16 bits of an immediate from bit `lo` up. -/
def halfword (n lo : Nat) : BitVec 16 := BitVec.ofNat 16 (n / 2 ^ lo)

/-- The commands a pseudo-instruction expands to (30_encoding.md R91). -/
def Pseudo.expand : Pseudo → List Instr
  | .cardinality rd ra => [.popcv rd ra]
  | .cardinalityU32 rd ra => [.popc32 rd ra]
  | .cardinalityBuf rd ra rb => [.popcb rd ra rb]
  | .intersect rd ops => [.and rd ops]
  | .union rd ops => [.or rd ops]
  | .difference rd ops => [.xor rd ops]
  | .reverse rd ra => [.not rd ra]
  | .reset rd => [.clr rd]
  | .li32 rd imm => [.li rd (halfword imm.toNat 16), .lis rd (halfword imm.toNat 0)]
  | .li64 rd imm =>
    [.li rd (halfword imm.toNat 48), .lis rd (halfword imm.toNat 32), .lis rd (halfword imm.toNat 16),
      .lis rd (halfword imm.toNat 0)]
  | .newForm imp vd xf => [imp, .sflr vd xf]

/-- The text of a vector register (30_encoding.md R90). -/
def vName (i : VIx) : String := "v" ++ toString i.val

/-- The text of a scalar register (30_encoding.md R90). -/
def xName (i : XIx) : String := "x" ++ toString i.val

/-- A mnemonic and its operands on one line (30_encoding.md R90). -/
def asmLine (mnemonic : String) (operands : List String) : String :=
  if operands.isEmpty then mnemonic else mnemonic ++ " " ++ String.intercalate ", " operands

/-- The assembly text of a command (30_encoding.md R90): operands in field order, mnemonics in lowercase, immediates in
decimal. -/
def asmText : Instr → String
  | .halt => asmLine "halt" []
  | .nop => asmLine "nop" []
  | .li rd imm => asmLine "li" [xName rd, toString imm.toNat]
  | .lis rd imm => asmLine "lis" [xName rd, toString imm.toNat]
  | .fill rd ra => asmLine "fill" [vName rd, xName ra]
  | .set rd ra rb => asmLine "set" [vName rd, xName ra, xName rb]
  | .setv rd ra => asmLine "setv" [vName rd, vName ra]
  | .get rd ra rb => asmLine "get" [xName rd, vName ra, xName rb]
  | .clr rd => asmLine "clr" [vName rd]
  | .clone rd ra => asmLine "clone" [vName rd, vName ra]
  | .eq rd ra rb => asmLine "eq" [xName rd, vName ra, vName rb]
  | .push rd ra => asmLine "push" [vName rd, xName ra]
  | .pop rd ra => asmLine "pop" [xName rd, vName ra]
  | .brev rd => asmLine "brev" [vName rd]
  | .idxof rd ra rb => asmLine "idxof" [xName rd, vName ra, xName rb]
  | .slice rd ra rb rc => asmLine "slice" [vName rd, vName ra, xName rb, xName rc]
  | .len rd ra => asmLine "len" [xName rd, vName ra]
  | .sflr rd ra => asmLine "sflr" [vName rd, xName ra]
  | .new rd => asmLine "new" [vName rd]
  | .fbin rd ra rb => asmLine "fbin" [vName rd, xName ra, xName rb]
  | .fnum rd ra => asmLine "fnum" [vName rd, xName ra]
  | .fnumo rd ra => asmLine "fnumo" [vName rd, xName ra]
  | .ldbits rd ra rb => asmLine "ldbits" [vName rd, xName ra, xName rb]
  | .fints rd ra rb => asmLine "fints" [vName rd, xName ra, xName rb]
  | .octet rd ra => asmLine "octet" [vName rd, vName ra]
  | .foff rd ra rb => asmLine "foff" [vName rd, xName ra, xName rb]
  | .fdec rd ra rb => asmLine "fdec" [vName rd, xName ra, xName rb]
  | .fhex rd ra rb => asmLine "fhex" [vName rd, xName ra, xName rb]
  | .fhexn rd ra => asmLine "fhexn" [vName rd, xName ra]
  | .fbytes rd ra rb => asmLine "fbytes" [vName rd, xName ra, xName rb]
  | .tooff rd ra rb => asmLine "tooff" [xName rd, vName ra, xName rb]
  | .tobytes rd ra rb => asmLine "tobytes" [xName rd, vName ra, xName rb]
  | .tonum rd ra => asmLine "tonum" [xName rd, vName ra]
  | .tohex rd ra rb => asmLine "tohex" [xName rd, vName ra, xName rb]
  | .tostr rd ra rb => asmLine "tostr" [xName rd, vName ra, xName rb]
  | .tobits rd ra rb => asmLine "tobits" [xName rd, vName ra, xName rb]
  | .and rd ops => asmLine "and" (vName rd :: ops.map vName)
  | .or rd ops => asmLine "or" (vName rd :: ops.map vName)
  | .xor rd ops => asmLine "xor" (vName rd :: ops.map vName)
  | .not rd ra => asmLine "not" [vName rd, vName ra]
  | .popc32 rd ra => asmLine "popc32" [xName rd, xName ra]
  | .popcv rd ra => asmLine "popcv" [xName rd, vName ra]
  | .popcb rd ra rb => asmLine "popcb" [xName rd, xName ra, xName rb]

/-- A line of a program (30_encoding.md R90). -/
inductive AsmItem where
  | command (i : Instr)
  | pseudo (p : Pseudo)
  /-- `.word v`: a 32-bit little-endian data word. -/
  | word (v : Word)
  /-- `.byte v, ...`, and `.ascii "text"` by the text's ASCII codes. -/
  | bytes (bs : List Byte)
  /-- `.org a`: sets the location counter. -/
  | org (a : Nat)
  /-- `name:`, whose value is the address of the next command. -/
  | label (name : String)
  deriving DecidableEq, Repr

/-- The bytes that an item places at the location counter. -/
def AsmItem.image : AsmItem → List Byte
  | .command i => encodeBytes i
  | .pseudo p => p.expand.flatMap encodeBytes
  | .word v => u32Bytes v.toNat
  | .bytes bs => bs
  | .org _ => []
  | .label _ => []

/-- The location counter after an item. -/
def AsmItem.advance (at_ : Nat) : AsmItem → Nat
  | .org a => a
  | i => at_ + i.image.length

/-- The memory that a program's items make, from location `at_` up, over `m`. -/
def assemble (m : Memory) (at_ : Nat) : List AsmItem → Memory
  | [] => m
  | i :: rest => assemble (Memory.store m at_ i.image) (i.advance at_) rest

/-- The values of a program's labels. -/
def labelValues (at_ : Nat) : List AsmItem → List (String × Nat)
  | [] => []
  | .label name :: rest => (name, at_) :: labelValues at_ rest
  | i :: rest => labelValues (i.advance at_) rest

end Sys2Proof.Machine
end

