-- ==== Sys2Proof/Safety.lean ====
section
/-! DEFINITION. What counts as a good state of the machine: the invariants that the spec states of its registers, memory and
status, in the terms the statements use. -/

namespace Sys2Proof.Machine

/-- A vector register's contents (10_state.md R20): 0 ≤ len ≤ MAXLEN and 0 ≤ floor ≤ MAXLEN. -/
abbrev VReg.Ok (c : Config) (r : VReg) : Prop := r.bits.length ≤ c.maxLen ∧ r.floor ≤ c.maxLen

/-- DMEM in canonical form, with nothing listed outside DMEM (20_memory.md R60). -/
abbrev State.MemOk (s : State) : Prop := Memory.wf s.mem ∧ ∀ c ∈ s.mem, c.1 < s.cfg.dmemBytes

/-- The status of a block (10_state.md R34, 60_exceptions.md R302, R308): DONE and FAULT are never both 1; during a run both
are 0 and no code is reported; nothing runs while `rst` is asserted (70_reset_and_hazards.md R342). -/
abbrev State.StatusOk (s : State) : Prop :=
  ¬(s.done = true ∧ s.fault = true) ∧
  (s.busy = true → s.done = false ∧ s.fault = false ∧ s.fcode = none) ∧
  (s.fault = true → s.fcode.isSome = true) ∧
  (s.rst = true → s.busy = false)

/-- A good state: legal parameters, and registers, memory and status as the spec says they are. -/
abbrev State.Good (s : State) : Prop :=
  s.cfg.Legal ∧ (∀ i : VIx, VReg.Ok s.cfg (s.v.get i)) ∧ s.MemOk ∧ s.StatusOk

end Sys2Proof.Machine
end

