-- ==== Sys2Proof/Certificates/Slice0/Obligations.lean ====
section
/-! DEFINITION. The statements for the provers, with the words they are written in. A statement about a command gives its
encoding, the exact next state where it completes (so that everything the record does not name is unchanged, memory included) and
the exact fault entry where the rule says that it faults. Results are written in the library's terms, not the model's. -/

namespace Sys2Proof.Claims

open Sys2Proof.Machine

/-- The word of a format R command, from the field table of 30_encoding.md R83; an unused field is given as 0. -/
def rWord (op : Nat) (rd ra rb rc : Fin 8) : Word :=
  BitVec.ofNat 32 (rc.val * 2 ^ 17 + rb.val * 2 ^ 14 + ra.val * 2 ^ 11 + rd.val * 2 ^ 8 + op)

/-- The word of a format XI command, from the field table of 30_encoding.md R82. -/
def xiWord (op : Nat) (rd : Fin 8) (imm : BitVec 16) : Word :=
  BitVec.ofNat 32 (imm.toNat * 2 ^ 16 + rd.val * 2 ^ 8 + op)

/-- The word of a format L command, from the field table of 30_encoding.md R84: operand k in the three bits from 14 + 3k up. -/
def lWord (op : Nat) (rd : Fin 8) (ops : List (Fin 8)) : Word :=
  BitVec.ofNat 32 (((List.range ops.length).map fun k => (ops.getD k 0).val * 2 ^ (14 + 3 * k)).sum +
    ops.length * 2 ^ 11 + rd.val * 2 ^ 8 + op)

/-- The command word at PC, byte PC in bits 7:0 and byte PC + 3 in bits 31:24 (30_encoding.md R80). -/
def wordAtPc (s : State) : Word :=
  s.byteAt (s.pc.toNat + 3) ++ s.byteAt (s.pc.toNat + 2) ++ s.byteAt (s.pc.toNat + 1) ++ s.byteAt s.pc.toNat

/-- The state that differs from `s` in vector register `i` and in PC, which is 4 further. -/
def wroteV (s : State) (i : VIx) (bits : List Bool) (floor : Nat) : State :=
  { s with v := s.v.set i { bits := bits, floor := floor }, pc := s.pc + 4 }

/-- The state that differs from `s` in scalar register `i` and in PC, which is 4 further. -/
def wroteX (s : State) (i : XIx) (n : Nat) : State :=
  { s with x := s.x.set i (BitVec.ofNat 64 n), pc := s.pc + 4 }

/-- The fault entry of 60_exceptions.md R302 for the command at PC: PC, V, X and DMEM as before. FINST is the word w that
45_sequencer.md R280 reads at PC (log entry 6 says so of the states that no run reaches). -/
def faulted (s : State) (f : Trap) (info : Nat) : State :=
  { s with
    busy := false, fault := true, fcode := some f, fpc := s.pc
    finfo := BitVec.ofNat 32 (min info (2 ^ 32 - 1)), finst := wordAtPc s }

/-- `t` differs from `s` in scalar register `rd`, which holds the count, in PC, which is 4 further, and in memory, which holds
the bytes `bs` from address `a` up and is otherwise unchanged. -/
def Exported (s t : State) (rd : XIx) (a : Nat) (bs : List Byte) (count : Nat) : Prop :=
  t = { s with x := s.x.set rd (BitVec.ofNat 64 count), pc := s.pc + 4, mem := t.mem } ∧
  ∀ b, t.byteAt b = if a ≤ b ∧ b < a + bs.length then bs.getD (b - a) 0 else s.byteAt b

/-- The little-endian 32-bit element at address `a` (20_memory.md R63). -/
def u32At (s : State) (a : Nat) : Nat :=
  (s.byteAt a).toNat + (s.byteAt (a + 1)).toNat * 2 ^ 8 + (s.byteAt (a + 2)).toNat * 2 ^ 16 +
    (s.byteAt (a + 3)).toNat * 2 ^ 24

/-- The bits of `v`, index i holding bit i, as many as its bit length (41_codec_import.md R150). -/
def bitsOf (v : Nat) : List Bool := (List.range (Nat.size v)).map v.testBit

/-- The bit length of `v` rounded up to a positive multiple of 8 (41_codec_import.md R151). -/
def octetWidth (v : Nat) : Nat := if v = 0 then 8 else (Nat.size v + 7) / 8 * 8

/-- The bits of `v` over that width, most significant first (41_codec_import.md R152). -/
def octetBits (v : Nat) : List Bool := (List.range (octetWidth v)).map fun j => v.testBit (octetWidth v - 1 - j)

/-- `d` is the value of the ASCII hexadecimal digit `b`, in either case (41_codec_import.md R154). -/
def IsHexDigit (b : Byte) (d : Nat) : Prop :=
  (d < 10 ∧ b.toNat = 0x30 + d) ∨
  (10 ≤ d ∧ d < 16 ∧ (b.toNat = 0x61 + (d - 10) ∨ b.toNat = 0x41 + (d - 10)))

/-- The value of a bit sequence, index 0 least significant (42_codec_export.md R200). -/
def valueOf (s : List Bool) : Nat := Nat.ofDigits 2 (s.map Bool.toNat)

/-- The number of 1 bits of a number. -/
def onesIn (w : Nat) : Nat := (Nat.digits 2 w).sum

/-- The parallel count of 44_cardinality.md R260, every step mod 2^32. -/
def swar (w : BitVec 32) : BitVec 32 :=
  let w1 := w - ((w >>> 1) &&& 0x55555555#32)
  let w2 := (w1 &&& 0x33333333#32) + ((w1 >>> 2) &&& 0x33333333#32)
  let w3 := (w2 + (w2 >>> 4)) &&& 0x0F0F0F0F#32
  (w3 * 0x01010101#32) >>> 24

/-- The length of the longest operand (43_set_algebra.md R240). -/
def maxLength (s : State) (ops : List VIx) : Nat := (ops.map fun k => (s.v.get k).bits.length).foldr max 0

/-- Operand `k` has a 1 at index `i`. -/
def oneAt (s : State) (k : VIx) (i : Nat) : Bool := (s.v.get k).bits[i]? == some true

/-- A sequence without the zero bits at its high end. -/
def trimmed (s : List Bool) : List Bool := s.rdropWhile (!·)

/-- Commands executed one after the other. -/
def execSeq : List Instr → State → Host.Outcome State Fault Refusal
  | [], s => .next s
  | i :: is, s =>
    match exec i s with
    | .next t => execSeq is t
    | .fault r => .fault r
    | .refused r => .refused r

/-- The rows of the opcode map in formats N, XI and R as (match, mask) of spec/opcode_table.json (30_encoding.md R87). -/
def fixedRows : List (Nat × Nat) :=
  [(0x01, 0xFFFFFFFF), (0x02, 0xFFFFFFFF), (0x08, 0x0000F8FF), (0x09, 0x0000F8FF),
   (0x10, 0xFFFFC0FF), (0x11, 0xFFFE00FF), (0x12, 0xFFFFC0FF), (0x13, 0xFFFE00FF), (0x14, 0xFFFFF8FF),
   (0x15, 0xFFFFC0FF), (0x16, 0xFFFE00FF), (0x17, 0xFFFFC0FF), (0x18, 0xFFFFC0FF), (0x19, 0xFFFFF8FF),
   (0x1A, 0xFFFE00FF), (0x1B, 0xFFF000FF), (0x1C, 0xFFFFC0FF), (0x1D, 0xFFFFC0FF)] ++
  [(0x20, 0xFFFFF8FF), (0x21, 0xFFFE00FF), (0x22, 0xFFFFC0FF), (0x23, 0xFFFFC0FF), (0x24, 0xFFFE00FF),
   (0x25, 0xFFFE00FF), (0x26, 0xFFFFC0FF), (0x27, 0xFFFE00FF), (0x28, 0xFFFE00FF), (0x29, 0xFFFE00FF),
   (0x2A, 0xFFFFC0FF), (0x2B, 0xFFFE00FF)] ++
  [(0x30, 0xFFFE00FF), (0x31, 0xFFFE00FF), (0x32, 0xFFFFC0FF), (0x33, 0xFFFE00FF), (0x34, 0xFFFE00FF),
   (0x35, 0xFFFE00FF), (0x43, 0xFFFFC0FF), (0x48, 0xFFFFC0FF), (0x49, 0xFFFFC0FF), (0x4A, 0xFFFE00FF)]

/-- A legal word of format L: AND, OR or XOR, 1 to 6 operands, every slot s_k with k ≥ n zero (30_encoding.md R84, R88). -/
def LegalListWord (w : Word) : Prop :=
  (w.toNat % 256 = 0x40 ∨ w.toNat % 256 = 0x41 ∨ w.toNat % 256 = 0x42) ∧
  1 ≤ w.toNat / 2 ^ 11 % 8 ∧ w.toNat / 2 ^ 11 % 8 ≤ 6 ∧ w.toNat / 2 ^ (14 + 3 * (w.toNat / 2 ^ 11 % 8)) = 0

/-- The vector register that a command may write (10_state.md R23). -/
def writesV : Instr → Option VIx
  | .fill rd _ | .set rd _ _ | .setv rd _ | .clr rd | .clone rd _ | .push rd _ | .brev rd | .slice rd _ _ _ | .sflr rd _
  | .new rd | .fbin rd _ _ | .fnum rd _ | .fnumo rd _ | .ldbits rd _ _ | .fints rd _ _ | .octet rd _ | .foff rd _ _
  | .fdec rd _ _ | .fhex rd _ _ | .fhexn rd _ | .fbytes rd _ _ | .and rd _ | .or rd _ | .xor rd _ | .not rd _ => some rd
  | .get _ ra _ | .pop _ ra => some ra
  | .halt | .nop | .li .. | .lis .. | .eq .. | .idxof .. | .len .. | .tooff .. | .tobytes .. | .tonum .. | .tohex ..
  | .tostr .. | .tobits .. | .popc32 .. | .popcv .. | .popcb .. => none

/-- The scalar register that a command writes (10_state.md R26). -/
def writesX : Instr → Option XIx
  | .li rd _ | .lis rd _ | .get rd _ _ | .eq rd _ _ | .pop rd _ | .idxof rd _ _ | .len rd _ | .tooff rd _ _
  | .tobytes rd _ _ | .tonum rd _ | .tohex rd _ _ | .tostr rd _ _ | .tobits rd _ _ | .popc32 rd _ | .popcv rd _
  | .popcb rd _ _ => some rd
  | .halt | .nop | .fill .. | .set .. | .setv .. | .clr .. | .clone .. | .push .. | .brev .. | .slice .. | .sflr .. | .new ..
  | .fbin .. | .fnum .. | .fnumo .. | .ldbits .. | .fints .. | .octet .. | .foff .. | .fdec .. | .fhex .. | .fhexn ..
  | .fbytes .. | .and .. | .or .. | .xor .. | .not .. => none

/-- The commands that write DMEM (20_memory.md R60). -/
def writesDmem : Instr → Bool
  | .tooff .. | .tobytes .. | .tohex .. | .tostr .. | .tobits .. => true
  | .halt | .nop | .li .. | .lis .. | .fill .. | .set .. | .setv .. | .get .. | .clr .. | .clone .. | .eq .. | .push ..
  | .pop .. | .brev .. | .idxof .. | .slice .. | .len .. | .sflr .. | .new .. | .fbin .. | .fnum .. | .fnumo ..
  | .ldbits .. | .fints .. | .octet .. | .foff .. | .fdec .. | .fhex .. | .fhexn .. | .fbytes .. | .tonum .. | .and ..
  | .or .. | .xor .. | .not .. | .popc32 .. | .popcv .. | .popcb .. => false

/-- Every register, status and fault register at the reset value of 10_state.md R41, the constants included; DMEM apart. -/
def AtReset (c : Config) (t : State) : Prop :=
  (∀ i, t.v.get i = { bits := [], floor := 0 }) ∧ (∀ i, t.x.get i = 0) ∧ t.pc = 0 ∧ t.busy = false ∧ t.irqEn = false ∧
  t.done = false ∧ t.fault = false ∧ t.fcode = none ∧ t.statusWord = 0 ∧ t.fpc = 0 ∧ t.finfo = 0 ∧ t.finst = 0 ∧
  t.irq = false ∧ t.readReg 0x00 = 0x42564531 ∧
  t.readReg 0x04 = BitVec.ofNat 32 (0x01060088 + c.numBits * 256) ∧
  t.readReg 0x08 = BitVec.ofNat 32 c.dmemBytes ∧ t.readReg 0x0C = BitVec.ofNat 32 c.maxLen ∧ t.cfg = c

/-- What the host port and the free values hold is as in `s`. -/
def SameOutside (s t : State) : Prop :=
  t.cfg = s.cfg ∧ t.held = s.held ∧ t.rst = s.rst ∧ t.inbox = s.inbox ∧ t.replies = s.replies ∧ t.powerOns = s.powerOns ∧
  t.softResets = s.softResets ∧ t.otherWrites = s.otherWrites

/-- `s` after a host read, answered with `n`: nothing but the answer is new (10_state.md R38, 20_memory.md R66: no read side
effect). -/
def answered (s : State) (off : Word) (w : Width) (n : Nat) : State :=
  { s with replies := s.replies ++ [{ access := .read off w, data := n }] }

/-- A read that is not held is answered at once, during a run too, with what `State.hostRead` gives there. -/
def ReadsAreAnswered (s : State) : Prop :=
  ∀ (off : Word) (w : Width), s.busy = false ∨ (HostAccess.read off w).shared s.cfg = false →
    s.arrive (.read off w) = answered s off w (s.hostRead off.toNat w)

/-- The registers that never stall, as they read at any time (STATUS as StatusReadsAndClears says), and those of them that
ignore a write (10_state.md R30 to R32, R36; 20_memory.md R68). -/
def NeverStallingRegisters (s : State) : Prop :=
  (∀ r ∈ ([(0x00, 0x42564531), (0x04, BitVec.ofNat 32 (0x01060088 + s.cfg.numBits * 256)),
      (0x08, BitVec.ofNat 32 s.cfg.dmemBytes), (0x0C, BitVec.ofNat 32 s.cfg.maxLen), (0x10, if s.irqEn then 2 else 0),
      (0x14, s.readReg 0x14), (0x1C, s.fpc), (0x20, s.finfo), (0x24, s.finst)] : List (Word × Word)),
    s.arrive (.read r.1 .w32) = answered s r.1 .w32 r.2.toNat) ∧
  ∀ off ∈ ([0x00, 0x04, 0x08, 0x0C, 0x1C, 0x20, 0x24] : List Word), ∀ d : Word, s.arrive (.write off .w32 d) = s

/-- PC and the halves of X0 to X7, as the host reads and writes them while the engine is idle (10_state.md R35, R37). -/
def PcAndScalarRegisters (s : State) : Prop :=
  ∀ d : Word,
    s.arrive (.read 0x18 .w32) = answered s 0x18 .w32 s.pc.toNat ∧ s.arrive (.write 0x18 .w32 d) = { s with pc := d } ∧
    ∀ i : XIx,
      let lo : Word := BitVec.ofNat 32 (0x40 + 8 * i.val)
      let hi : Word := BitVec.ofNat 32 (0x44 + 8 * i.val)
      s.arrive (.read lo .w32) = answered s lo .w32 ((s.x.get i).extractLsb' 0 32).toNat ∧
      s.arrive (.read hi .w32) = answered s hi .w32 ((s.x.get i).extractLsb' 32 32).toNat ∧
      s.arrive (.write lo .w32 d) = { s with x := s.x.set i ((s.x.get i).extractLsb' 32 32 ++ d) } ∧
      s.arrive (.write hi .w32 d) = { s with x := s.x.set i (d ++ (s.x.get i).extractLsb' 0 32) }

/-- The accesses that a run holds: PC, XiLO and XiHI, and every access that reaches DMEM, at one of its offsets or from the register
window on (20_memory.md R68, log entry 7). -/
def StalledBehindTheRun (s : State) : Prop :=
  ∀ (off d : Word) (w : Width), s.busy = true →
    (w = .w32 ∧ (off.toNat = 0x18 ∨ (0x40 ≤ off.toNat ∧ off.toNat ≤ 0x7C ∧ off.toNat % 4 = 0))) ∨
      (0x10000 ≤ off.toNat ∧ off.toNat < 0x10000 + s.cfg.dmemBytes) ∨
      (off.toNat < 0x10000 ∧ 0x10000 < off.toNat + w.bytes ∧ 0 < s.cfg.dmemBytes) →
    s.arrive (.read off w) = { s with held := s.held ++ [.read off w] } ∧
    s.arrive (.write off w d) = { s with held := s.held ++ [.write off w d] }

/-- What reads 0 and ignores a write: an offset that no register occupies, another width or alignment inside the register window,
and every offset from the end of DMEM up (10_state.md R38, 20_memory.md R61). -/
def NothingElseInTheWindows (s : State) : Prop :=
  ∀ (off d : Word) (w : Width),
    (w = .w32 ∧ off.toNat % 4 = 0 ∧ 0x28 ≤ off.toNat ∧ off.toNat < 0x10000 ∧ ¬(0x40 ≤ off.toNat ∧ off.toNat ≤ 0x7C)) ∨
      (off.toNat + w.bytes ≤ 0x10000 ∧ ¬(w = .w32 ∧ off.toNat % 4 = 0)) ∨
      0x10000 + s.cfg.dmemBytes ≤ off.toNat →
    s.arrive (.read off w) = answered s off w 0 ∧ s.arrive (.write off w d) = s

/-- The 8-, 16- and 32-bit accesses to DMEM byte `a` and up while the engine is idle, little-endian and at any alignment
(20_memory.md R61, R63); and a write of any width changes no byte of DMEM outside its range, and nothing but DMEM. -/
def DmemWindow (s : State) : Prop :=
  (∀ p ∈ [(Width.w8, 1), (Width.w16, 2), (Width.w32, 4)], ∀ (a : Nat) (off d : Word),
    a + p.2 ≤ s.cfg.dmemBytes → off.toNat = 0x10000 + a →
    s.arrive (.read off p.1) =
      answered s off p.1 (Nat.ofDigits 256 ((List.range p.2).map fun j => (s.byteAt (a + j)).toNat)) ∧
    ∃ t, s.arrive (.write off p.1 d) = t ∧ t = { s with mem := t.mem } ∧
      ∀ b, t.byteAt b = if a ≤ b ∧ b < a + p.2 then d.extractLsb' (8 * (b - a)) 8 else s.byteAt b) ∧
  ∀ (w : Width) (off d : Word), 0x10000 ≤ off.toNat →
    ∃ t, s.arrive (.write off w d) = t ∧ t = { s with mem := t.mem, otherWrites := t.otherWrites } ∧
      ∀ b, 0x10000 + b < off.toNat ∨ off.toNat + w.bytes ≤ 0x10000 + b → t.byteAt b = s.byteAt b

/-- The 8-, 16- and 32-bit accesses to no register, at any offset, while the engine is idle: byte by byte, DMEM where the offset is
DMEM's, and elsewhere 0 and ignored. So an access across offset 0x10000 or across the end of DMEM reaches the bytes inside (log
entry 7). -/
def BytewiseAccesses (s : State) : Prop :=
  ∀ p ∈ [(Width.w8, 1), (Width.w16, 2), (Width.w32, 4)], ∀ off d : Word,
    ¬(p.1 = .w32 ∧ off.toNat % 4 = 0 ∧ off.toNat < 0x10000) →
    s.arrive (.read off p.1) =
      answered s off p.1 (Nat.ofDigits 256 ((List.range p.2).map fun j =>
        if 0x10000 ≤ off.toNat + j ∧ off.toNat + j < 0x10000 + s.cfg.dmemBytes then
          (s.byteAt (off.toNat + j - 0x10000)).toNat
        else 0)) ∧
    ∃ t, s.arrive (.write off p.1 d) = t ∧ t = { s with mem := t.mem } ∧
      ∀ b, t.byteAt b =
        if b < s.cfg.dmemBytes ∧ off.toNat ≤ 0x10000 + b ∧ 0x10000 + b < off.toNat + p.2 then
          d.extractLsb' (8 * (0x10000 + b - off.toNat)) 8
        else s.byteAt b

end Sys2Proof.Claims

open Sys2Proof Sys2Proof.Machine Sys2Proof.Claims

/-! ### The sequencer and scalar commands -/

/-- 45_sequencer.md R281, R282. -/
def Obligations.HaltEndsTheRunAndNopDoesNothing : Prop :=
  decode 0x00000001#32 = .ok .halt ∧ decode 0x00000002#32 = .ok .nop ∧
  ∀ s : State,
    exec .halt s = .next { s with pc := s.pc + 4, busy := false, done := true } ∧
    exec .nop s = .next { s with pc := s.pc + 4 }

/-- 45_sequencer.md R283, R284. -/
def Obligations.LiLoadsAndLisShiftsIn : Prop :=
  ∀ (s : State) (rd : XIx) (imm : BitVec 16),
    decode (xiWord 0x08 rd imm) = .ok (.li rd imm) ∧ decode (xiWord 0x09 rd imm) = .ok (.lis rd imm) ∧
    exec (.li rd imm) s = .next { s with x := s.x.set rd (imm.setWidth 64), pc := s.pc + 4 } ∧
    exec (.lis rd imm) s =
      .next { s with x := s.x.set rd ((s.x.get rd).extractLsb' 0 48 ++ imm), pc := s.pc + 4 }

/-! ### The bit store commands -/

/-- 40_bit_store.md R104, R117, with R100. -/
def Obligations.FillAndSflrZeroExtend : Prop :=
  ∀ (s : State) (rd : VIx) (ra : XIx),
    let grown := (s.v.get rd).bits ++ List.replicate (s.xNat ra - (s.v.get rd).bits.length) false
    decode (rWord 0x10 rd ra 0 0) = .ok (.fill rd ra) ∧ decode (rWord 0x1D rd ra 0 0) = .ok (.sflr rd ra) ∧
    (s.xNat ra ≤ s.cfg.maxLen →
      exec (.fill rd ra) s = .next (wroteV s rd grown (s.v.get rd).floor) ∧
      exec (.sflr rd ra) s = .next (wroteV s rd grown (s.xNat ra))) ∧
    (s.cfg.maxLen < s.xNat ra →
      exec (.fill rd ra) s = .next (faulted s .capacity (s.xNat ra)) ∧
      exec (.sflr rd ra) s = .next (faulted s .capacity (s.xNat ra)))

/-- 40_bit_store.md R105. -/
def Obligations.SetWritesOneBitAndGrows : Prop :=
  ∀ (s : State) (rd : VIx) (ra rb : XIx),
    decode (rWord 0x11 rd ra rb 0) = .ok (.set rd ra rb) ∧
    (s.xNat ra < s.cfg.maxLen →
      exec (.set rd ra rb) s =
        .next (wroteV s rd
          (((s.v.get rd).bits ++ List.replicate
            (max (s.xNat ra + 1) (s.v.get rd).floor - (s.v.get rd).bits.length) false).set (s.xNat ra)
              (decide (s.xNat rb ≠ 0)))
          (s.v.get rd).floor)) ∧
    (s.cfg.maxLen ≤ s.xNat ra → exec (.set rd ra rb) s = .next (faulted s .capacity (s.xNat ra + 1)))

/-- 40_bit_store.md R106. -/
def Obligations.GetReadsOneBitAndMayGrowItsSource : Prop :=
  ∀ (s : State) (rd : XIx) (ra : VIx) (rb : XIx),
    decode (rWord 0x13 rd ra rb 0) = .ok (.get rd ra rb) ∧
    (s.xNat rb < s.cfg.maxLen →
      exec (.get rd ra rb) s =
        .next { s with
          x := s.x.set rd (if (s.v.get ra).bits[s.xNat rb]? = some true then 1 else 0),
          v := s.v.set ra
            { bits := (s.v.get ra).bits ++ List.replicate
                (max (s.xNat rb + 1) (s.v.get ra).floor - (s.v.get ra).bits.length) false,
              floor := (s.v.get ra).floor },
          pc := s.pc + 4 }) ∧
    (s.cfg.maxLen ≤ s.xNat rb → exec (.get rd ra rb) s = .next (faulted s .capacity (s.xNat rb + 1)))

/-- 40_bit_store.md R107, R108, R109. -/
def Obligations.ClrCloneSetvClearCopyReplace : Prop :=
  ∀ (s : State) (rd ra : VIx),
    decode (rWord 0x14 rd 0 0 0) = .ok (.clr rd) ∧ decode (rWord 0x15 rd ra 0 0) = .ok (.clone rd ra) ∧
    decode (rWord 0x12 rd ra 0 0) = .ok (.setv rd ra) ∧
    exec (.clr rd) s =
      .next (wroteV s rd (List.replicate (s.v.get rd).floor false) (s.v.get rd).floor) ∧
    exec (.clone rd ra) s = .next (wroteV s rd (s.v.get ra).bits 0) ∧
    exec (.setv rd ra) s =
      .next (wroteV s rd
        ((s.v.get ra).bits ++ List.replicate ((s.v.get rd).floor - (s.v.get ra).bits.length) false) (s.v.get rd).floor)

/-- 40_bit_store.md R110. -/
def Obligations.EqComparesStructurally : Prop :=
  ∀ (s : State) (rd : XIx) (ra rb : VIx),
    decode (rWord 0x16 rd ra rb 0) = .ok (.eq rd ra rb) ∧
    ((s.v.get ra).bits.length = (s.v.get rb).bits.length →
      (∀ i < (s.v.get ra).bits.length, (s.v.get ra).bits[i]? = (s.v.get rb).bits[i]?) →
      exec (.eq rd ra rb) s = .next (wroteX s rd 1)) ∧
    ((s.v.get ra).bits.length ≠ (s.v.get rb).bits.length → exec (.eq rd ra rb) s = .next (wroteX s rd 0)) ∧
    (∀ i < (s.v.get ra).bits.length, (s.v.get ra).bits[i]? ≠ (s.v.get rb).bits[i]? →
      exec (.eq rd ra rb) s = .next (wroteX s rd 0))

/-- 40_bit_store.md R111. -/
def Obligations.PushAppendsOneBit : Prop :=
  ∀ (s : State) (rd : VIx) (ra : XIx),
    decode (rWord 0x17 rd ra 0 0) = .ok (.push rd ra) ∧
    ((s.v.get rd).bits.length < s.cfg.maxLen →
      exec (.push rd ra) s =
        .next (wroteV s rd ((s.v.get rd).bits ++ [decide (s.xNat ra ≠ 0)]) (s.v.get rd).floor)) ∧
    (s.cfg.maxLen ≤ (s.v.get rd).bits.length →
      exec (.push rd ra) s = .next (faulted s .capacity ((s.v.get rd).bits.length + 1)))

/-- 40_bit_store.md R112. -/
def Obligations.PopRemovesTheLastBit : Prop :=
  ∀ (s : State) (rd : XIx) (ra : VIx),
    decode (rWord 0x18 rd ra 0 0) = .ok (.pop rd ra) ∧
    ((s.v.get ra).bits = [] → exec (.pop rd ra) s = .next (wroteX s rd 0xFFFFFFFFFFFFFFFF)) ∧
    (∀ (l : List Bool) (b : Bool), (s.v.get ra).bits = l ++ [b] →
      exec (.pop rd ra) s =
        .next { s with
          x := s.x.set rd (if b then 1 else 0),
          v := s.v.set ra { bits := l, floor := (s.v.get ra).floor },
          pc := s.pc + 4 })

/-- 40_bit_store.md R113; 43_set_algebra.md R245. -/
def Obligations.BrevReversesAndNotInverts : Prop :=
  ∀ (s : State) (rd ra : VIx),
    decode (rWord 0x19 rd 0 0 0) = .ok (.brev rd) ∧ decode (rWord 0x43 rd ra 0 0) = .ok (.not rd ra) ∧
    exec (.brev rd) s = .next (wroteV s rd (s.v.get rd).bits.reverse (s.v.get rd).floor) ∧
    exec (.not rd ra) s = .next (wroteV s rd ((s.v.get ra).bits.map fun b => if b then false else true) 0)

/-- 40_bit_store.md R114. -/
def Obligations.IdxofFindsTheFirstIndex : Prop :=
  ∀ (s : State) (rd : XIx) (ra : VIx) (rb : XIx),
    decode (rWord 0x1A rd ra rb 0) = .ok (.idxof rd ra rb) ∧
    (∀ (i : Nat) (b : Bool), s.xNat rb = (if b then 1 else 0) → (s.v.get ra).bits[i]? = some b →
      (∀ j < i, (s.v.get ra).bits[j]? ≠ some b) → exec (.idxof rd ra rb) s = .next (wroteX s rd i)) ∧
    (∀ b : Bool, s.xNat rb = (if b then 1 else 0) → b ∉ (s.v.get ra).bits →
      exec (.idxof rd ra rb) s = .next (wroteX s rd 0xFFFFFFFFFFFFFFFF)) ∧
    (1 < s.xNat rb → exec (.idxof rd ra rb) s = .next (wroteX s rd 0xFFFFFFFFFFFFFFFF))

/-- 40_bit_store.md R115. -/
def Obligations.SliceCopiesARange : Prop :=
  ∀ (s : State) (rd ra : VIx) (rb rc : XIx),
    decode (rWord 0x1B rd ra rb rc) = .ok (.slice rd ra rb rc) ∧
    exec (.slice rd ra rb rc) s =
      .next (wroteV s rd (((s.v.get ra).bits.take (s.xNat rc)).drop (s.xNat rb)) 0)

/-- 40_bit_store.md R116; 44_cardinality.md R262. -/
def Obligations.LenAndPopcvMeasureAVector : Prop :=
  ∀ (s : State) (rd : XIx) (ra : VIx),
    decode (rWord 0x1C rd ra 0 0) = .ok (.len rd ra) ∧ decode (rWord 0x49 rd ra 0 0) = .ok (.popcv rd ra) ∧
    exec (.len rd ra) s = .next (wroteX s rd (s.v.get ra).bits.length) ∧
    exec (.popcv rd ra) s = .next (wroteX s rd ((s.v.get ra).bits.map Bool.toNat).sum)

/-! ### The codec import commands -/

/-- 41_codec_import.md R156, R162, R151. -/
def Obligations.NewEmptiesAndOctetPads : Prop :=
  ∀ (s : State) (rd ra : VIx),
    decode (rWord 0x20 rd 0 0 0) = .ok (.new rd) ∧ decode (rWord 0x26 rd ra 0 0) = .ok (.octet rd ra) ∧
    exec (.new rd) s = .next (wroteV s rd [] 0) ∧
    ∃ k, exec (.octet rd ra) s = .next (wroteV s rd ((s.v.get ra).bits ++ List.replicate k false) 0) ∧
      ((s.v.get ra).bits.length + k) % 8 = 0 ∧ 0 < (s.v.get ra).bits.length + k ∧ k ≤ 8 ∧
      (k = 8 ↔ (s.v.get ra).bits = [])

/-- 41_codec_import.md R157. -/
def Obligations.FbinReadsABinaryString : Prop :=
  ∀ (s : State) (rd : VIx) (ra rb : XIx),
    let a := s.xNat ra
    let n := s.xNat rb
    let isDigit : Nat → Prop := fun j => s.byteAt (a + j) = 0x30#8 ∨ s.byteAt (a + j) = 0x31#8
    decode (rWord 0x21 rd ra rb 0) = .ok (.fbin rd ra rb) ∧
    (¬InRange s.cfg a n → exec (.fbin rd ra rb) s = .next (faulted s .memRange a)) ∧
    (InRange s.cfg a n → ∀ j < n, ¬isDigit j → (∀ k < j, isDigit k) →
      exec (.fbin rd ra rb) s = .next (faulted s .badFmt j)) ∧
    (InRange s.cfg a n → (∀ k < n, isDigit k) → s.cfg.maxLen < n →
      exec (.fbin rd ra rb) s = .next (faulted s .capacity n)) ∧
    (InRange s.cfg a n → (∀ k < n, isDigit k) → n ≤ s.cfg.maxLen →
      exec (.fbin rd ra rb) s =
        .next (wroteV s rd ((List.range n).map fun i => decide (s.byteAt (a + (n - 1 - i)) = 0x31#8)) 0))

/-- 41_codec_import.md R158, R159, with R150 and R152. -/
def Obligations.FnumAndFnumoDecomposeANumber : Prop :=
  ∀ (s : State) (rd : VIx) (ra : XIx),
    decode (rWord 0x22 rd ra 0 0) = .ok (.fnum rd ra) ∧ decode (rWord 0x23 rd ra 0 0) = .ok (.fnumo rd ra) ∧
    (s.xNat ra < 2 ^ s.cfg.numBits →
      exec (.fnum rd ra) s = .next (wroteV s rd (bitsOf (s.xNat ra)) 0) ∧
      exec (.fnumo rd ra) s = .next (wroteV s rd (octetBits (s.xNat ra)) 0)) ∧
    (2 ^ s.cfg.numBits ≤ s.xNat ra →
      exec (.fnum rd ra) s = .next (faulted s .overflow 0) ∧
      exec (.fnumo rd ra) s = .next (faulted s .overflow 0))

/-- 41_codec_import.md R160. -/
def Obligations.LdbitsReadsOneByteForEachBit : Prop :=
  ∀ (s : State) (rd : VIx) (ra rb : XIx),
    let a := s.xNat ra
    let n := s.xNat rb
    let isBit : Nat → Prop := fun j => s.byteAt (a + j) = 0#8 ∨ s.byteAt (a + j) = 1#8
    decode (rWord 0x24 rd ra rb 0) = .ok (.ldbits rd ra rb) ∧
    (¬InRange s.cfg a n → exec (.ldbits rd ra rb) s = .next (faulted s .memRange a)) ∧
    (InRange s.cfg a n → ∀ j < n, ¬isBit j → (∀ k < j, isBit k) →
      exec (.ldbits rd ra rb) s = .next (faulted s .badFmt j)) ∧
    (InRange s.cfg a n → (∀ k < n, isBit k) → s.cfg.maxLen < n →
      exec (.ldbits rd ra rb) s = .next (faulted s .capacity n)) ∧
    (InRange s.cfg a n → (∀ k < n, isBit k) → n ≤ s.cfg.maxLen →
      exec (.ldbits rd ra rb) s =
        .next (wroteV s rd ((List.range n).map fun i => decide (s.byteAt (a + i) = 1#8)) 0))

/-- 41_codec_import.md R161. -/
def Obligations.FintsConcatenatesOctetAlignedElements : Prop :=
  ∀ (s : State) (rd : VIx) (ra rb : XIx),
    let a := s.xNat ra
    let n := s.xNat rb
    let bits := (List.range n).flatMap fun k => octetBits (u32At s (a + 4 * k))
    decode (rWord 0x25 rd ra rb 0) = .ok (.fints rd ra rb) ∧
    (¬InRange s.cfg a (4 * n) → exec (.fints rd ra rb) s = .next (faulted s .memRange a)) ∧
    (InRange s.cfg a (4 * n) → s.cfg.maxLen < bits.length →
      exec (.fints rd ra rb) s = .next (faulted s .capacity bits.length)) ∧
    (InRange s.cfg a (4 * n) → bits.length ≤ s.cfg.maxLen →
      exec (.fints rd ra rb) s = .next (wroteV s rd bits 0))

/-- 41_codec_import.md R163. -/
def Obligations.FoffSetsTheListedBits : Prop :=
  ∀ (s : State) (rd : VIx) (ra rb : XIx),
    let a := s.xNat ra
    let n := s.xNat rb
    let offs := (List.range n).map fun k => u32At s (a + 4 * k)
    decode (rWord 0x27 rd ra rb 0) = .ok (.foff rd ra rb) ∧
    (¬InRange s.cfg a (4 * n) → exec (.foff rd ra rb) s = .next (faulted s .memRange a)) ∧
    (InRange s.cfg a (4 * n) → ∀ (k : Nat) (h : k < offs.length), s.cfg.maxLen ≤ offs[k] →
      (∀ o ∈ offs.take k, o < s.cfg.maxLen) →
      exec (.foff rd ra rb) s = .next (faulted s .capacity (offs[k] + 1))) ∧
    (InRange s.cfg a (4 * n) → (∀ o ∈ offs, o < s.cfg.maxLen) →
      exec (.foff rd ra rb) s =
        .next (wroteV s rd
          ((List.range ((offs.map (· + 1)).foldr max 0)).map fun i => decide (i ∈ offs)) 0))

/-- 41_codec_import.md R164, with R153. -/
def Obligations.FdecReadsADecimalString : Prop :=
  ∀ (s : State) (rd : VIx) (ra rb : XIx),
    let a := s.xNat ra
    let n := s.xNat rb
    let isDigit : Nat → Prop := fun j => 0x30 ≤ (s.byteAt (a + j)).toNat ∧ (s.byteAt (a + j)).toNat ≤ 0x39
    let value := Nat.ofDigits 10 ((List.range n).map fun i => (s.byteAt (a + (n - 1 - i))).toNat - 0x30)
    decode (rWord 0x28 rd ra rb 0) = .ok (.fdec rd ra rb) ∧
    (¬InRange s.cfg a n → exec (.fdec rd ra rb) s = .next (faulted s .memRange a)) ∧
    (n = 0 → exec (.fdec rd ra rb) s = .next (faulted s .badFmt 0)) ∧
    (InRange s.cfg a n → ∀ j < n, ¬isDigit j → (∀ k < j, isDigit k) →
      exec (.fdec rd ra rb) s = .next (faulted s .badFmt j)) ∧
    (InRange s.cfg a n → 0 < n → (∀ k < n, isDigit k) → 2 ^ s.cfg.numBits ≤ value →
      exec (.fdec rd ra rb) s = .next (faulted s .overflow 0)) ∧
    (InRange s.cfg a n → 0 < n → (∀ k < n, isDigit k) → value < 2 ^ s.cfg.numBits →
      exec (.fdec rd ra rb) s = .next (wroteV s rd (bitsOf value) 0))

/-- 41_codec_import.md R165, with R154. -/
def Obligations.FhexReadsAHexadecimalString : Prop :=
  ∀ (s : State) (rd : VIx) (ra rb : XIx),
    let a := s.xNat ra
    let n := s.xNat rb
    let p := if 2 ≤ n ∧ s.byteAt a = 0x30#8 ∧ s.byteAt (a + 1) = 0x78#8 then 2 else 0
    decode (rWord 0x29 rd ra rb 0) = .ok (.fhex rd ra rb) ∧
    (¬InRange s.cfg a n → exec (.fhex rd ra rb) s = .next (faulted s .memRange a)) ∧
    (InRange s.cfg a n → p = n → exec (.fhex rd ra rb) s = .next (faulted s .badFmt n)) ∧
    (InRange s.cfg a n → ∀ j, p ≤ j → j < n → (∀ d, ¬IsHexDigit (s.byteAt (a + j)) d) →
      (∀ k, p ≤ k → k < j → ∃ d, IsHexDigit (s.byteAt (a + k)) d) →
      exec (.fhex rd ra rb) s = .next (faulted s .badFmt j)) ∧
    (InRange s.cfg a n → p < n → ∀ ds : List Nat, ds.length = n - p →
      (∀ j < n - p, IsHexDigit (s.byteAt (a + p + j)) (ds.getD j 0)) →
      (2 ^ s.cfg.numBits ≤ Nat.ofDigits 16 ds.reverse →
        exec (.fhex rd ra rb) s = .next (faulted s .overflow 0)) ∧
      (Nat.ofDigits 16 ds.reverse < 2 ^ s.cfg.numBits →
        exec (.fhex rd ra rb) s = .next (wroteV s rd (bitsOf (Nat.ofDigits 16 ds.reverse)) 0)))

/-- 41_codec_import.md R166. -/
def Obligations.FhexnRereadsDecimalDigitsAsHexadecimal : Prop :=
  ∀ (s : State) (rd : VIx) (ra : XIx),
    let h := Nat.ofDigits 16 (Nat.digits 10 (s.xNat ra))
    decode (rWord 0x2A rd ra 0 0) = .ok (.fhexn rd ra) ∧
    (2 ^ s.cfg.numBits ≤ s.xNat ra → exec (.fhexn rd ra) s = .next (faulted s .overflow 0)) ∧
    (s.xNat ra < 2 ^ s.cfg.numBits → 2 ^ s.cfg.numBits ≤ h →
      exec (.fhexn rd ra) s = .next (faulted s .overflow 0)) ∧
    (s.xNat ra < 2 ^ s.cfg.numBits → h < 2 ^ s.cfg.numBits →
      exec (.fhexn rd ra) s = .next (wroteV s rd (bitsOf h) 0))

/-- 41_codec_import.md R167. -/
def Obligations.FbytesReadsAByteBuffer : Prop :=
  ∀ (s : State) (rd : VIx) (ra rb : XIx),
    let a := s.xNat ra
    let n := s.xNat rb
    decode (rWord 0x2B rd ra rb 0) = .ok (.fbytes rd ra rb) ∧
    (¬InRange s.cfg a n → exec (.fbytes rd ra rb) s = .next (faulted s .memRange a)) ∧
    (InRange s.cfg a n → s.cfg.maxLen < 8 * n → exec (.fbytes rd ra rb) s = .next (faulted s .capacity (8 * n))) ∧
    (InRange s.cfg a n → 8 * n ≤ s.cfg.maxLen →
      exec (.fbytes rd ra rb) s =
        .next (wroteV s rd
          ((List.range (8 * n)).map fun i => (s.byteAt (a + i / 8)).toNat.testBit (7 - i % 8)) 0))

/-! ### The codec export commands -/

/-- 42_codec_export.md R203. -/
def Obligations.TooffWritesTheOffsetsOfSetBits : Prop :=
  ∀ (s : State) (rd : XIx) (ra : VIx) (rb : XIx),
    let a := s.xNat rb
    let offs := (List.range (s.v.get ra).bits.length).filter fun i => (s.v.get ra).bits[i]? == some true
    let bs : List Byte := offs.flatMap fun o =>
      [BitVec.ofNat 8 o, BitVec.ofNat 8 (o / 2 ^ 8), BitVec.ofNat 8 (o / 2 ^ 16), BitVec.ofNat 8 (o / 2 ^ 24)]
    decode (rWord 0x30 rd ra rb 0) = .ok (.tooff rd ra rb) ∧
    (¬InRange s.cfg a (4 * offs.length) → exec (.tooff rd ra rb) s = .next (faulted s .memRange a)) ∧
    (InRange s.cfg a (4 * offs.length) →
      ∃ t, exec (.tooff rd ra rb) s = .next t ∧ Exported s t rd a bs offs.length)

/-- 42_codec_export.md R204, with R201. -/
def Obligations.TobytesWritesByteGroups : Prop :=
  ∀ (s : State) (rd : XIx) (ra : VIx) (rb : XIx),
    let a := s.xNat rb
    let n := ((s.v.get ra).bits.length + 7) / 8
    let bs : List Byte := (List.range n).map fun k =>
      BitVec.ofNat 8 (Nat.ofDigits 2 ((((s.v.get ra).bits.drop (8 * k)).take 8).reverse.map Bool.toNat))
    decode (rWord 0x31 rd ra rb 0) = .ok (.tobytes rd ra rb) ∧
    (¬InRange s.cfg a n → exec (.tobytes rd ra rb) s = .next (faulted s .memRange a)) ∧
    (InRange s.cfg a n → ∃ t, exec (.tobytes rd ra rb) s = .next t ∧ Exported s t rd a bs n)

/-- 42_codec_export.md R205, with R200. -/
def Obligations.TonumGivesThePositionalValue : Prop :=
  ∀ (s : State) (rd : XIx) (ra : VIx),
    decode (rWord 0x32 rd ra 0 0) = .ok (.tonum rd ra) ∧
    (valueOf (s.v.get ra).bits < 2 ^ s.cfg.numBits →
      exec (.tonum rd ra) s = .next (wroteX s rd (valueOf (s.v.get ra).bits))) ∧
    (2 ^ s.cfg.numBits ≤ valueOf (s.v.get ra).bits → exec (.tonum rd ra) s = .next (faulted s .overflow 0)) ∧
    (2 ^ s.cfg.numBits ≤ valueOf (s.v.get ra).bits ↔
      ∃ i, s.cfg.numBits ≤ i ∧ (s.v.get ra).bits[i]? = some true)

/-- 42_codec_export.md R206, with R202. -/
def Obligations.TohexWritesHexadecimalText : Prop :=
  ∀ (s : State) (rd : XIx) (ra : VIx) (rb : XIx),
    let a := s.xNat rb
    let v := valueOf (s.v.get ra).bits
    let text : List Byte := if v = 0 then [0x30#8] else
      (Nat.digits 16 v).reverse.map fun d => BitVec.ofNat 8 (if d < 10 then 0x30 + d else 0x61 + d - 10)
    decode (rWord 0x33 rd ra rb 0) = .ok (.tohex rd ra rb) ∧
    (2 ^ s.cfg.numBits ≤ v → exec (.tohex rd ra rb) s = .next (faulted s .overflow 0)) ∧
    (v < 2 ^ s.cfg.numBits → ¬InRange s.cfg a text.length →
      exec (.tohex rd ra rb) s = .next (faulted s .memRange a)) ∧
    (v < 2 ^ s.cfg.numBits → InRange s.cfg a text.length →
      ∃ t, exec (.tohex rd ra rb) s = .next t ∧ Exported s t rd a text text.length)

/-- 42_codec_export.md R207. -/
def Obligations.TostrWritesTheDisplayString : Prop :=
  ∀ (s : State) (rd : XIx) (ra : VIx) (rb : XIx),
    let a := s.xNat rb
    let n := (s.v.get ra).bits.length
    let text : List Byte := (List.range n).map fun j =>
      if (s.v.get ra).bits[n - 1 - j]? = some true then 0x31#8 else 0x30#8
    decode (rWord 0x34 rd ra rb 0) = .ok (.tostr rd ra rb) ∧
    (¬InRange s.cfg a n → exec (.tostr rd ra rb) s = .next (faulted s .memRange a)) ∧
    (InRange s.cfg a n → ∃ t, exec (.tostr rd ra rb) s = .next t ∧ Exported s t rd a text n)

/-- 42_codec_export.md R208. -/
def Obligations.TobitsWritesOneByteForEachBit : Prop :=
  ∀ (s : State) (rd : XIx) (ra : VIx) (rb : XIx),
    let a := s.xNat rb
    let n := (s.v.get ra).bits.length
    let bs : List Byte := (List.range n).map fun j => if (s.v.get ra).bits[j]? = some true then 1#8 else 0#8
    decode (rWord 0x35 rd ra rb 0) = .ok (.tobits rd ra rb) ∧
    (¬InRange s.cfg a n → exec (.tobits rd ra rb) s = .next (faulted s .memRange a)) ∧
    (InRange s.cfg a n → ∃ t, exec (.tobits rd ra rb) s = .next t ∧ Exported s t rd a bs n)

/-! ### The set algebra commands -/

/-- 43_set_algebra.md R242, R243, with R240. -/
def Obligations.AndAndOrVoteOnEveryIndex : Prop :=
  ∀ (s : State) (rd : VIx) (ops : List VIx),
    (Instr.legalOps ops = true →
      decode (lWord 0x40 rd ops) = .ok (.and rd ops) ∧ decode (lWord 0x41 rd ops) = .ok (.or rd ops)) ∧
    exec (.and rd ops) s =
      .next (wroteV s rd ((List.range (maxLength s ops)).map fun i => ops.all fun k => oneAt s k i) 0) ∧
    exec (.or rd ops) s =
      .next (wroteV s rd ((List.range (maxLength s ops)).map fun i => ops.any fun k => oneAt s k i) 0)

/-- 43_set_algebra.md R244, with R240. -/
def Obligations.XorMarksExactlyOneOrAll : Prop :=
  ∀ (s : State) (rd : VIx) (ops : List VIx),
    (Instr.legalOps ops = true → decode (lWord 0x42 rd ops) = .ok (.xor rd ops)) ∧
    exec (.xor rd ops) s =
      .next (wroteV s rd ((List.range (maxLength s ops)).map fun i =>
        decide ((ops.filter fun k => oneAt s k i).length = 1 ∨
          (ops.filter fun k => oneAt s k i).length = ops.length)) 0)

/-- 43_set_algebra.md R241: for each of the three decisions the result is the one over operands zero-extended to L. -/
def Obligations.VotesEqualThoseOverZeroExtendedOperands : Prop :=
  ∀ ops : List (List Bool), ∀ f ∈ [andDecision, orDecision, xorDecision],
    reconcile f (ops.map fun s => s ++ List.replicate (longest ops - s.length) false) = reconcile f ops

/-- 43_set_algebra.md R246. -/
def Obligations.AndAndOrChainAndXorDoesNot : Prop :=
  (∀ xs ys : List (List Bool), xs ≠ [] → ∀ f ∈ [andDecision, orDecision],
    reconcile f (reconcile f xs :: ys) = reconcile f (xs ++ ys)) ∧
  (∀ xs ys : List (List Bool), xs.Perm ys → ∀ f ∈ [andDecision, orDecision, xorDecision],
    reconcile f xs = reconcile f ys) ∧
  (∃ a b c : List Bool, reconcile xorDecision [reconcile xorDecision [a, b], c] ≠ reconcile xorDecision [a, b, c])

/-! ### The cardinality commands -/

/-- 44_cardinality.md R261; the parallel count is the form that R260 gives for information. -/
def Obligations.Popc32CountsThirtyTwoBits : Prop :=
  ∀ (s : State) (rd ra : XIx),
    decode (rWord 0x48 rd ra 0 0) = .ok (.popc32 rd ra) ∧
    (s.xNat ra < 2 ^ 32 →
      exec (.popc32 rd ra) s = .next (wroteX s rd (onesIn (s.xNat ra))) ∧
      (swar (BitVec.ofNat 32 (s.xNat ra))).toNat = onesIn (s.xNat ra)) ∧
    (2 ^ 32 ≤ s.xNat ra → exec (.popc32 rd ra) s = .next (faulted s .range 0))

/-- 44_cardinality.md R263. -/
def Obligations.PopcbCountsABuffer : Prop :=
  ∀ (s : State) (rd ra rb : XIx),
    let a := s.xNat ra
    let n := s.xNat rb
    decode (rWord 0x4A rd ra rb 0) = .ok (.popcb rd ra rb) ∧
    (¬InRange s.cfg a n → exec (.popcb rd ra rb) s = .next (faulted s .memRange a)) ∧
    (InRange s.cfg a n →
      exec (.popcb rd ra rb) s =
        .next (wroteX s rd ((List.range n).map fun j => onesIn (s.byteAt (a + j)).toNat).sum))

/-- 44_cardinality.md R264. -/
def Obligations.TheThreeCountsAgree : Prop :=
  ∀ (s : State) (d : VIx) (rd ra rb : XIx), s.cfg.Legal →
    (InRange s.cfg (s.xNat ra) (s.xNat rb) → 8 * s.xNat rb ≤ s.cfg.maxLen →
      ∃ t u, execSeq [.fbytes d ra rb, .popcv rd d] s = .next t ∧ exec (.popcb rd ra rb) s = .next u ∧ t.x = u.x ∧
        t.fault = s.fault ∧ u.fault = s.fault) ∧
    (s.xNat ra < 2 ^ 32 →
      ∃ t u, execSeq [.fnum d ra, .popcv rd d] s = .next t ∧ exec (.popc32 rd ra) s = .next u ∧ t.x = u.x ∧
        t.fault = s.fault ∧ u.fault = s.fault) ∧
    (∀ rc : XIx, s.xNat ra < 2 ^ 32 → s.xNat rc = 4 → InRange s.cfg (s.xNat rb) 4 →
      u32At s (s.xNat rb) = s.xNat ra →
      ∃ t u, exec (.popcb rd rb rc) s = .next t ∧ exec (.popc32 rd ra) s = .next u ∧ t.x = u.x ∧
        t.fault = s.fault ∧ u.fault = s.fault)

/-! ### Round trips and built values -/

/-- 42_codec_export.md R209, the number round trip and the hexadecimal round trip. -/
def Obligations.NumbersAndHexTextComeBack : Prop :=
  ∀ (s : State) (d e : VIx) (n b c r : XIx), s.cfg.Legal → c ≠ b →
    (s.xNat n < 2 ^ s.cfg.numBits → s.xNat b + s.cfg.numBits ≤ s.cfg.dmemBytes →
      ∃ t, execSeq [.fnum d n, .tobits c d b, .ldbits e b c, .tonum r e] s = .next t ∧ t.x.get r = s.x.get n ∧
        t.fault = s.fault ∧ t.pc = s.pc + 16) ∧
    (valueOf (s.v.get d).bits < 2 ^ s.cfg.numBits → s.xNat b + 16 ≤ s.cfg.dmemBytes →
      ∃ t, execSeq [.tohex c d b, .fhex e b c] s = .next t ∧
        t.v.get e = { bits := trimmed (s.v.get d).bits, floor := 0 } ∧ t.fault = s.fault ∧ t.pc = s.pc + 8)

/-- 42_codec_export.md R209, the display string and the raw bits. -/
def Obligations.StringsAndRawBitsComeBack : Prop :=
  ∀ (s : State) (d e : VIx) (b c : XIx), s.cfg.Legal → c ≠ b → (s.v.get d).bits.length ≤ s.cfg.maxLen →
    s.xNat b + (s.v.get d).bits.length ≤ s.cfg.dmemBytes →
    (∃ t, execSeq [.tostr c d b, .fbin e b c] s = .next t ∧
      t.v.get e = { bits := (s.v.get d).bits, floor := 0 } ∧ t.fault = s.fault ∧ t.pc = s.pc + 8) ∧
    (∃ t, execSeq [.tobits c d b, .ldbits e b c] s = .next t ∧
      t.v.get e = { bits := (s.v.get d).bits, floor := 0 } ∧ t.fault = s.fault ∧ t.pc = s.pc + 8)

/-- 42_codec_export.md R209, bytes from a buffer and bytes from a vector. -/
def Obligations.BuffersAndWholeBytesComeBack : Prop :=
  ∀ (s : State) (d e : VIx) (a n b c : XIx), s.cfg.Legal → c ≠ b →
    (InRange s.cfg (s.xNat a) (s.xNat n) → InRange s.cfg (s.xNat b) (s.xNat n) → 8 * s.xNat n ≤ s.cfg.maxLen →
      ∃ t, execSeq [.fbytes d a n, .tobytes c d b] s = .next t ∧ t.x.get c = s.x.get n ∧
        (∀ j < s.xNat n, t.byteAt (s.xNat b + j) = s.byteAt (s.xNat a + j)) ∧ t.fault = s.fault ∧ t.pc = s.pc + 8) ∧
    ((s.v.get d).bits.length % 8 = 0 → (s.v.get d).bits.length ≤ s.cfg.maxLen →
      InRange s.cfg (s.xNat b) ((s.v.get d).bits.length / 8) →
      ∃ t, execSeq [.tobytes c d b, .fbytes e b c] s = .next t ∧
        t.v.get e = { bits := (s.v.get d).bits, floor := 0 } ∧ t.fault = s.fault ∧ t.pc = s.pc + 8)

/-- 42_codec_export.md R209, the offsets. -/
def Obligations.OffsetsComeBackTrimmed : Prop :=
  ∀ (s : State) (d e : VIx) (b c : XIx), s.cfg.Legal → c ≠ b → (s.v.get d).bits.length ≤ s.cfg.maxLen →
    InRange s.cfg (s.xNat b) (4 * (s.v.get d).bits.count true) →
    ∃ t, execSeq [.tooff c d b, .foff e b c] s = .next t ∧
      t.v.get e = { bits := trimmed (s.v.get d).bits, floor := 0 } ∧ t.fault = s.fault ∧ t.pc = s.pc + 8

/-- 45_sequencer.md R284, 30_encoding.md R91. -/
def Obligations.Li32AndLi64BuildAnyValue : Prop :=
  ∀ (s : State) (rd : XIx) (n : BitVec 32) (m : BitVec 64),
    execSeq (Pseudo.li32 rd n).expand s = .next { s with x := s.x.set rd (n.setWidth 64), pc := s.pc + 8 } ∧
    execSeq (Pseudo.li64 rd m).expand s = .next { s with x := s.x.set rd m, pc := s.pc + 16 }

/-! ### Encoding -/

/-- Words of 95_test_vectors.md and what they are: a few of them, legal and illegal. -/
def Obligations.SampleWordsDecode : Prop :=
  decode 0x01000108#32 = .ok (.li 1 0x0100#16) ∧ decode 0x00008113#32 = .ok (.get 1 0 2) ∧
  decode 0x0006811B#32 = .ok (.slice 1 0 2 3) ∧ decode 0x0000882B#32 = .ok (.fbytes 0 1 2) ∧
  decode 0x0000C434#32 = .ok (.tostr 4 0 3) ∧ decode 0xD6223342#32 = .ok (.xor 3 [0, 1, 2, 4, 5, 6]) ∧
  decode 0x00008B4A#32 = .ok (.popcb 3 1 2) ∧ decode 0x00000000#32 = .error (.unassignedOpcode 0) ∧
  decode 0x00008010#32 = .error .mustBeZero ∧ decode 0x00003840#32 = .error (.operandCount 7) ∧
  decode 0x00040940#32 = .error .unusedSlot

/-- Decoding what the encoder writes gives the command back, for every well-formed command. -/
def Obligations.DecodeOfEncodeIsTheCommand : Prop :=
  ∀ i : Instr, i.wellFormed = true →
    decode (encode i) = .ok i ∧ ∀ rest, decodeBytes (encodeBytes i ++ rest) = .ok (i, rest)

/-- A word that decodes is the encoding of what it decodes to: every bit of a command word has a meaning. -/
def Obligations.DecodableWordsAreEncodings : Prop :=
  ∀ (w : Word) (i : Instr), decode w = .ok i → i.wellFormed = true ∧ encode i = w

/-- 30_encoding.md R88: a word decodes exactly where it matches a row of the opcode map. -/
def Obligations.ExactlyTheListedWordsAreLegal : Prop :=
  ∀ w : Word, (∃ i, decode w = .ok i) ↔
    ((∃ r ∈ fixedRows, w.toNat &&& r.2 = r.1) ∨ LegalListWord w)

/-! ### The machine -/

/-- What a step does. An arrival that is due takes place, whether or not the engine runs; else a running engine executes the
decoded command (45_sequencer.md R280), and an idle one does nothing (10_state.md R39, 70_reset_and_hazards.md R343). A held access
comes before all of them once it may complete (TheHostCannotDisturbARun), so nothing is held here that may. `State.tick` only
brings the next arrival one step nearer. That what the host and the platform do is data of the state, that an arrival comes before
the command at PC, and that `rst` keeps held accesses waiting, are the model's choices (log entries 1, 9 and 10). -/
def Obligations.ARunningStepExecutesTheDecodedCommand : Prop :=
  ∀ s : State,
    (∀ i : Instr, s.busy = true → s.due = none → s.pc.toNat % 4 = 0 → s.pc.toNat + 4 ≤ s.cfg.dmemBytes →
      decode (wordAtPc s) = .ok i → step s = exec i s.tick) ∧
    (∀ (e : HostEvent) (rest : List Arrival), s.busy = true ∨ s.rst = true ∨ s.held = [] →
      s.inbox = { delay := 0, event := e } :: rest →
      step s = .next (({ s with inbox := rest } : State).event e)) ∧
    (s.busy = false → s.rst = true ∨ s.held = [] → s.due = none → step s = .next s.tick) ∧
    (s.due = none ↔ ∀ e ∈ s.inbox.head?, e.delay ≠ 0) ∧
    (∀ a : HostAccess, s.event (.access a) = s.arrive a) ∧
    s.tick = { s with inbox := s.inbox.head?.toList.map (fun e => { e with delay := e.delay - 1 }) ++ s.inbox.tail }

/-- 60_exceptions.md R301, R302: the faults of fetch and decode. -/
def Obligations.FetchAndDecodeFaultsAreTaken : Prop :=
  ∀ s : State, s.busy = true → s.due = none →
    (s.pc.toNat % 4 ≠ 0 →
      step s = .next { s.tick with
        busy := false, fault := true, fcode := some .fetchMisaligned, fpc := s.pc
        finfo := s.pc, finst := 0 }) ∧
    (s.pc.toNat % 4 = 0 → s.cfg.dmemBytes < s.pc.toNat + 4 →
      step s = .next { s.tick with
        busy := false, fault := true, fcode := some .fetchRange, fpc := s.pc
        finfo := s.pc, finst := 0 }) ∧
    (s.pc.toNat % 4 = 0 → s.pc.toNat + 4 ≤ s.cfg.dmemBytes → (∀ i, decode (wordAtPc s) ≠ .ok i) →
      step s = .next { s.tick with
        busy := false, fault := true, fcode := some .illegal, fpc := s.pc
        finfo := 0, finst := wordAtPc s })

/-- 60_exceptions.md R302, R303: a command faults with no effect but the fault entry, or completes. -/
def Obligations.EveryCommandCompletesOrFaultsPrecisely : Prop :=
  ∀ (i : Instr) (s : State), ∃ t, exec i s = .next t ∧
    ((∃ f info, t = faulted s f info) ∨
      (t.pc = s.pc + 4 ∧ t.fault = s.fault ∧ t.fcode = s.fcode ∧ t.irqEn = s.irqEn ∧ t.fpc = s.fpc ∧
        t.finfo = s.finfo ∧ t.finst = s.finst ∧ SameOutside s t ∧
        (i ≠ .halt → t.busy = s.busy ∧ t.done = s.done)))

/-- 10_state.md R22, R23, R26; 20_memory.md R60: which registers a command may change, and whether DMEM. -/
def Obligations.CommandsWriteOnlyTheirDestinations : Prop :=
  ∀ (i : Instr) (s t : State), exec i s = .next t →
    (∀ j, writesV i ≠ some j → t.v.get j = s.v.get j) ∧
    (∀ j, writesX i ≠ some j → t.x.get j = s.x.get j) ∧
    (writesDmem i = false → t.mem = s.mem)

/-- No step ends in a stop of the model: every behaviour of the block is a next state (log entry 14). -/
def Obligations.EveryStepAnswersANextState : Prop :=
  (∀ s : State, ∃ t, step s = .next t) ∧ ∀ k s, ∃ t, Host.Core.run Sys2Proof.core k s = .next t

/-- Good states (Sys2Proof/Safety.lean) stay good, whatever the host and the platform do. The clause on DMEM is the model's
canonical form (log entry 3). -/
def Obligations.EveryStepKeepsTheGoodStates : Prop :=
  ∀ s t : State, s.Good → step s = .next t → t.Good

/-- The state after reset is good, at every legal choice of the parameters (log entry 2). -/
def Obligations.TheResetStateIsGood : Prop :=
  State.reset.Good ∧ ∀ c : Config, c.Legal → (State.resetWith c).Good

/-- 10_state.md R41, with R29 to R32: what reset leaves, whichever reset it is. -/
def Obligations.ResetLeavesTheListedValues : Prop :=
  AtReset Config.default State.reset ∧ State.reset.readReg 0x04 = 0x01063588 ∧
  ∀ s : State, AtReset s.cfg s.softReset ∧ AtReset s.cfg s.powerOnReset

/-- 70_reset_and_hazards.md R341: a CTRL write with SRST, the engine idle or running. That the command cut short is the one at PC,
and that held accesses stay held at first, are the model's choices (log entries 4 and 9). -/
def Obligations.SoftResetKeepsOrCutsShortMemory : Prop :=
  ∀ (s : State) (d : Word), Memory.wf s.mem → s.rst = false → d.getLsbD 2 = true →
    ∃ t, t = s.arrive (.write 0x10 .w32 d) ∧ AtReset s.cfg t ∧ t.held = s.held ∧ t.replies = s.replies ∧
      t.powerOns = s.powerOns ∧
      (s.busy = false → t.mem = s.mem) ∧
      (s.busy = true → ∀ b, t.byteAt b = s.byteAt b ∨ ∃ u, engineStep s = .next u ∧ t.byteAt b = u.byteAt b)

/-- 70_reset_and_hazards.md R340, R342: the assertion of `rst`, at any time, leaves the values of 10_state.md R41, the engine idle
and DMEM at fresh free values; while it is asserted, host accesses are ignored and reads return 0, and nothing runs. The assertion
and the release as two events, and what becomes of held accesses, are the model's choice (log entry 10), and so is the form of
DMEM's content (log entry 3). -/
def Obligations.AssertedResetIgnoresTheHost : Prop :=
  ∀ s : State,
    (AtReset s.cfg (s.event .rstAssert) ∧ (s.event .rstAssert).rst = true ∧
      (s.event .rstAssert).held = s.held ∧ (s.event .rstAssert).inbox = s.inbox ∧
      (s.event .rstAssert).replies = s.replies ∧
      ∀ b, (s.event .rstAssert).byteAt b = Config.powerOnDmem (s.powerOns + 1) b) ∧
    s.event .rstRelease = { s with rst := false } ∧
    (s.rst = true →
      (∀ (off d : Word) (w : Width), s.arrive (.write off w d) = s ∧
        s.arrive (.read off w) = { s with replies := s.replies ++ [{ access := .read off w, data := 0 }] }) ∧
      (s.busy = false → s.due = none → step s = .next s.tick))

/-- 10_state.md R33, 60_exceptions.md R308: a CTRL write without SRST. -/
def Obligations.CtrlWritesEnableAndGo : Prop :=
  ∀ (s : State) (d : Word), s.rst = false → d.getLsbD 2 = false →
    (d.getLsbD 0 = true → s.busy = false →
      s.arrive (.write 0x10 .w32 d) =
        { s with irqEn := d.getLsbD 1, done := false, fault := false, fcode := none, busy := true }) ∧
    (d.getLsbD 0 = false ∨ s.busy = true → s.arrive (.write 0x10 .w32 d) = { s with irqEn := d.getLsbD 1 }) ∧
    s.readReg 0x10 = (if s.irqEn then 2 else 0)

/-- 10_state.md R34, 60_exceptions.md R300, R306, R307: STATUS as it reads and as it is written, and the interrupt output. -/
def Obligations.StatusReadsAndClears : Prop :=
  ∀ (s : State) (d : Word),
    (s.readReg 0x14).getLsbD 0 = s.busy ∧ (s.readReg 0x14).getLsbD 1 = s.done ∧
    (s.readReg 0x14).getLsbD 2 = s.fault ∧ (s.readReg 0x14).getLsbD 3 = s.irq ∧
    (s.readReg 0x14).extractLsb' 4 4 = 0 ∧ (s.readReg 0x14).extractLsb' 16 16 = 0 ∧
    ((s.readReg 0x14).extractLsb' 8 8).toNat =
      (match s.fcode with
        | none => 0 | some .illegal => 1 | some .fetchMisaligned => 2 | some .fetchRange => 3 | some .memRange => 4
        | some .badFmt => 5 | some .overflow => 6 | some .capacity => 7 | some .range => 8) ∧
    (s.irq = true ↔ s.irqEn = true ∧ (s.done = true ∨ s.fault = true)) ∧
    (s.rst = false →
      s.arrive (.write 0x14 .w32 d) =
        { s with done := if d.getLsbD 1 then false else s.done, fault := if d.getLsbD 2 then false else s.fault })

/-- 20_memory.md R68, 70_reset_and_hazards.md R348: during a run no host access changes DMEM, V, X or PC but a CTRL write with
SRST; an access to DMEM, X or PC is held, and completes when the run is over, before anything else happens. Which accesses
stall, and the order in which held ones complete, are the model's choices where the rules do not say (log entries 7, 8 and 9). -/
def Obligations.TheHostCannotDisturbARun : Prop :=
  ∀ (s : State) (a : HostAccess), s.rst = false →
    (s.busy = true → (∀ d : Word, d.getLsbD 2 = true → a ≠ .write 0x10 .w32 d) →
      (s.arrive a).mem = s.mem ∧ (s.arrive a).v = s.v ∧ (s.arrive a).x = s.x ∧ (s.arrive a).pc = s.pc ∧
      (s.arrive a).busy = true) ∧
    (s.busy = true → a.shared s.cfg = true → s.arrive a = { s with held := s.held ++ [a] }) ∧
    (s.busy = false → ∀ rest, s.held = a :: rest → step s = .next (({ s with held := rest } : State).perform a))

/-- 20_memory.md R61, R63, R68; 10_state.md R29 to R32, R35 to R38: what a host access to the windows does, but for writes to CTRL
and STATUS, and what every read answers, `rst` not being asserted. (CTRL and STATUS writes: SoftResetKeepsOrCutsShortMemory,
CtrlWritesEnableAndGo and StatusReadsAndClears.) What the model chooses here: accesses that span two windows (log entry 7), that CTRL
reads and accesses with no effect do not stall (log entry 8), where narrow data lies (log entry 16), and what an access of another
width finds and leaves in DMEM (log entry 17). -/
def Obligations.TheHostReachesDmemAndX : Prop :=
  ∀ s : State, s.rst = false →
    ReadsAreAnswered s ∧ NeverStallingRegisters s ∧ StalledBehindTheRun s ∧ NothingElseInTheWindows s ∧
    (s.busy = false → PcAndScalarRegisters s ∧ DmemWindow s ∧ BytewiseAccesses s)

/-- 45_sequencer.md R285: with the host silent, a run ends after at most DMEM_BYTES / 4 commands, and the fetch after the last
of them. -/
def Obligations.EveryRunEnds : Prop :=
  ∀ s : State, s.cfg.Legal → s.inbox = [] →
    ∃ k ≤ s.cfg.dmemBytes / 4 + 1, ∃ t, Host.Core.run Sys2Proof.core k s = .next t ∧ t.busy = false
end

