-- ==== Sys2Proof/Laws/Codec.lean ====
section
/-! SUPPORT. What the shared definitions of the codec compute, in terms of the library's digits and lists. -/

namespace Sys2Proof.Machine

section digits

theorem digitLoop_eq_digits {base : Nat} (hb : 2 ≤ base) (fuel v : Nat) (h : v < 2 ^ fuel) :
    digitLoop base fuel v = Nat.digits base v := by
  induction fuel generalizing v with
  | zero =>
    obtain rfl : v = 0 := by simpa using h
    simp [digitLoop]
  | succ fuel ih =>
    rcases Nat.eq_zero_or_pos v with rfl | hv
    · simp [digitLoop]
    · have hlt : v / base < 2 ^ fuel := by
        calc v / base ≤ v / 2 := Nat.div_le_div_left hb (by omega)
          _ < 2 ^ fuel := by rw [Nat.div_lt_iff_lt_mul (by omega)]; omega
      rw [Nat.digits_def' (by omega) hv]
      simp [digitLoop, Nat.pos_iff_ne_zero.1 hv, ih _ hlt]

/-- The digits of a number are the library's digits. -/
theorem digitsOf_eq_digits {base : Nat} (hb : 2 ≤ base) (v : Nat) : digitsOf base v = Nat.digits base v :=
  digitLoop_eq_digits hb _ _ Nat.lt_log2_self

/-- Reading digits, most significant first, is the library's positional value. -/
theorem digitsValue_eq_ofDigits (base : Nat) (ds : List Nat) : digitsValue base ds = Nat.ofDigits base ds.reverse := by
  have H : ∀ (l : List Nat) (acc : Nat),
      l.foldl (fun acc d => acc * base + d) acc = Nat.ofDigits base l.reverse + acc * base ^ l.length := by
    intro l
    induction l with
    | nil => intro acc; simp
    | cons d l ih =>
      intro acc
      rw [List.foldl_cons, ih, List.reverse_cons, Nat.ofDigits_append]
      simp [pow_succ]
      ring
  simpa [digitsValue] using H ds 0

/-- LSBDigits is the library's list of the bits of a number (41_codec_import.md R150). -/
theorem lsbDigits_eq_bits (v : Nat) : lsbDigits v = Nat.bits v := by
  rw [lsbDigits, digitsOf_eq_digits (by omega), Nat.digits_two_eq_bits, List.map_map]
  conv_rhs => rw [← List.map_id (Nat.bits v)]
  refine List.map_congr_left fun b _ => ?_
  cases b <;> rfl

theorem length_lsbDigits (v : Nat) : (lsbDigits v).length = Nat.size v := by
  rw [lsbDigits_eq_bits, Nat.size_eq_bits_len]

/-- Element i of LSBDigits(v) is bit i of v (41_codec_import.md R150). -/
theorem getD_lsbDigits (v i : Nat) : (lsbDigits v).getD i false = v.testBit i := by
  rw [lsbDigits_eq_bits, Nat.testBit_eq_inth, List.getI_eq_getElem?_getD, List.getD_eq_getElem?_getD]
  rfl

theorem toNumber_eq_ofDigits (s : List Bool) : toNumber s = Nat.ofDigits 2 (s.map Bool.toNat) := by
  induction s with
  | nil => rfl
  | cons b s ih => rw [List.map_cons, Nat.ofDigits_cons, ← ih]; rfl

/-- LSBDigits and ToNumber are inverse on numbers (42_codec_export.md R209). -/
theorem toNumber_lsbDigits (v : Nat) : toNumber (lsbDigits v) = v := by
  have h : (lsbDigits v).map Bool.toNat = Nat.digits 2 v := by
    rw [lsbDigits_eq_bits, Nat.digits_two_eq_bits]
    exact List.map_congr_left fun b _ => by cases b <;> rfl
  rw [toNumber_eq_ofDigits, h, Nat.ofDigits_digits]

theorem groupValue_eq_ofDigits (g : List Bool) : groupValue g = Nat.ofDigits 2 (g.map Bool.toNat).reverse := by
  rw [← digitsValue_eq_ofDigits, digitsValue, List.foldl_map]
  rfl

end digits

section octets

/-- The length of an octet-aligned sequence: the next positive multiple of 8 (41_codec_import.md R151). -/
theorem length_octetAlign (s : List Bool) :
    (octetAlign s).length = if s.length = 0 then 8 else (s.length + 7) / 8 * 8 := by
  unfold octetAlign
  split
  · split <;> omega
  · simp only [List.length_append, zeros, List.length_replicate]
    split <;> omega

theorem length_octetDigits (v : Nat) :
    (octetDigits v).length = if v = 0 then 8 else (Nat.size v + 7) / 8 * 8 := by
  have : Nat.size v = 0 ↔ v = 0 := Nat.size_eq_zero
  simp [octetDigits, length_octetAlign, length_lsbDigits, this]

end octets

section groups

/-- Group k of `chunks` is the elements from index n * k up, n of them or what is left (42_codec_export.md R201). -/
theorem chunks_eq {α : Type} {n : Nat} (hn : 0 < n) (s : List α) :
    chunks n s = (List.range ((s.length + n - 1) / n)).map fun k => (s.drop (n * k)).take n := by
  have H : ∀ (fuel : Nat) (s : List α), s.length ≤ fuel →
      chunkLoop n fuel s = (List.range ((s.length + n - 1) / n)).map fun k => (s.drop (n * k)).take n := by
    intro fuel
    induction fuel with
    | zero =>
      intro s hs
      obtain rfl : s = [] := by simpa using hs
      simp [chunkLoop, Nat.div_eq_of_lt (show n - 1 < n by omega)]
    | succ fuel ih =>
      intro s hs
      rcases s with _ | ⟨x, s⟩
      · simp [chunkLoop, Nat.div_eq_of_lt (show n - 1 < n by omega)]
      · have hd : ((x :: s).drop n).length ≤ fuel := by
          simp only [List.length_drop, List.length_cons] at hs ⊢
          omega
        have hc : ((x :: s).length + n - 1) / n = (((x :: s).drop n).length + n - 1) / n + 1 := by
          rcases Nat.lt_or_ge (x :: s).length n with h | h
          · simp only [List.length_drop, List.length_cons] at h ⊢
            rw [show s.length + 1 - n = 0 by omega]
            rw [show s.length + 1 + n - 1 = s.length + n by omega, Nat.add_div_right _ hn]
            rw [Nat.div_eq_of_lt (show 0 + n - 1 < n by omega), Nat.div_eq_of_lt (show s.length < n by omega)]
          · rw [← Nat.add_div_right _ hn, List.length_drop]
            congr 1
            omega
        simp only [chunkLoop, List.isEmpty_cons, Bool.false_eq_true, if_false]
        rw [hc, List.range_succ_eq_map, List.map_cons, List.map_map, ih _ hd]
        simp only [Nat.mul_zero, List.drop_zero]
        congr 1
        refine List.map_congr_left fun k _ => ?_
        simp only [Function.comp, List.drop_drop]
        congr 2
        rw [Nat.succ_eq_add_one]; ring
  exact H s.length s le_rfl

theorem length_chunks {α : Type} {n : Nat} (hn : 0 < n) (s : List α) :
    (chunks n s).length = (s.length + n - 1) / n := by
  simp [chunks_eq hn]

theorem length_byteGroups (s : List Bool) : (byteGroups s).length = (s.length + 7) / 8 := by
  simp [byteGroups, length_chunks]

end groups

section offsets

/-- An offset is listed exactly where the bit is 1 (42_codec_export.md R203). -/
theorem mem_offsetsFrom (i o : Nat) (s : List Bool) :
    o ∈ offsetsFrom i s ↔ i ≤ o ∧ s[o - i]? = some true := by
  induction s generalizing i with
  | nil => simp [offsetsFrom]
  | cons b s ih =>
    rcases Nat.lt_trichotomy o i with h | rfl | h
    · cases b <;> simp [offsetsFrom, ih] <;> omega
    · cases b <;> simp [offsetsFrom, ih]
    · have h1 : o - i = (o - (i + 1)) + 1 := by omega
      have h2 : i + 1 ≤ o := h
      have h3 : o ≠ i := by omega
      cases b <;> simp [offsetsFrom, ih, h1, h2, h3, h.le, List.getElem?_cons_succ]

theorem offsetsFrom_pairwise (i : Nat) (s : List Bool) : (offsetsFrom i s).Pairwise (· < ·) := by
  induction s generalizing i with
  | nil => simp [offsetsFrom]
  | cons b s ih =>
    cases b
    · simpa [offsetsFrom] using ih (i + 1)
    · refine List.pairwise_cons.2 ⟨fun o ho => ?_, ih (i + 1)⟩
      have := ((mem_offsetsFrom (i + 1) o s).1 ho).1
      omega

/-- FOFF's step sets the offset and grows the sequence just enough (41_codec_import.md R163). -/
theorem getElem?_setOffset (s : List Bool) (o i : Nat) :
    (setOffset s o)[i]? =
      if i = o then some true else if i < s.length then s[i]? else if i < o then some false else none := by
  simp only [setOffset, zeros, List.getElem?_set, List.getElem?_append, List.getElem?_replicate, List.length_append,
    List.length_replicate]
  split_ifs <;> first | rfl | omega

@[simp] theorem length_setOffset (s : List Bool) (o : Nat) : (setOffset s o).length = max s.length (o + 1) := by
  simp [setOffset, zeros]
  omega

end offsets

section votes

/-- The result of a vote has the length of the longest operand (43_set_algebra.md R240). -/
@[simp] theorem length_reconcile (f : Nat → Nat → Bool) (ops : List (List Bool)) :
    (reconcile f ops).length = longest ops := by
  simp [reconcile]

theorem longest_le {ops : List (List Bool)} {n : Nat} (h : ∀ s ∈ ops, s.length ≤ n) : longest ops ≤ n := by
  have H : ∀ (l : List (List Bool)) (a : Nat), a ≤ n → (∀ s ∈ l, s.length ≤ n) →
      l.foldl (fun l s => max l s.length) a ≤ n := by
    intro l
    induction l with
    | nil => intro a ha _; simpa using ha
    | cons s l ih =>
      intro a ha hl
      refine ih _ ?_ fun t ht => hl t (List.mem_cons_of_mem _ ht)
      exact max_le ha (hl s (List.mem_cons_self ..))
  exact H ops 0 (Nat.zero_le _) h

end votes

end Sys2Proof.Machine
end

