-- ==== Sys2Proof/Laws/Decode.lean ====
section
/-! SUPPORT. The opcode map (30_encoding.md R87), one lemma for each opcode: which format reads a word of that opcode. -/

namespace Sys2Proof

/-- A field of a word given as a number. -/
theorem field_ofNat {n : Nat} (h : n < 2 ^ 32) (lo width : Nat) :
    field (BitVec.ofNat 32 n) lo width = n / 2 ^ lo % 2 ^ width := by
  simp only [field, BitVec.toNat_ofNat, Nat.mod_eq_of_lt h]

section opcodes

-- One after the other: elaborated all at once, these small proofs wait for each other in as many threads.
set_option Elab.async false

theorem decode_halt {w : Word} (h : field w 0 8 = 0x01) : decode w = formatN w .halt := by simp only [decode, h]
theorem decode_nop {w : Word} (h : field w 0 8 = 0x02) : decode w = formatN w .nop := by simp only [decode, h]
theorem decode_li {w : Word} (h : field w 0 8 = 0x08) : decode w = formatXI w .li := by simp only [decode, h]
theorem decode_lis {w : Word} (h : field w 0 8 = 0x09) : decode w = formatXI w .lis := by simp only [decode, h]
theorem decode_fill {w : Word} (h : field w 0 8 = 0x10) : decode w = formatR2 w .fill := by simp only [decode, h]
theorem decode_set {w : Word} (h : field w 0 8 = 0x11) : decode w = formatR3 w .set := by simp only [decode, h]
theorem decode_setv {w : Word} (h : field w 0 8 = 0x12) : decode w = formatR2 w .setv := by simp only [decode, h]
theorem decode_get {w : Word} (h : field w 0 8 = 0x13) : decode w = formatR3 w .get := by simp only [decode, h]
theorem decode_clr {w : Word} (h : field w 0 8 = 0x14) : decode w = formatR1 w .clr := by simp only [decode, h]
theorem decode_clone {w : Word} (h : field w 0 8 = 0x15) : decode w = formatR2 w .clone := by simp only [decode, h]
theorem decode_eq {w : Word} (h : field w 0 8 = 0x16) : decode w = formatR3 w .eq := by simp only [decode, h]
theorem decode_push {w : Word} (h : field w 0 8 = 0x17) : decode w = formatR2 w .push := by simp only [decode, h]
theorem decode_pop {w : Word} (h : field w 0 8 = 0x18) : decode w = formatR2 w .pop := by simp only [decode, h]
theorem decode_brev {w : Word} (h : field w 0 8 = 0x19) : decode w = formatR1 w .brev := by simp only [decode, h]
theorem decode_idxof {w : Word} (h : field w 0 8 = 0x1A) : decode w = formatR3 w .idxof := by simp only [decode, h]
theorem decode_slice {w : Word} (h : field w 0 8 = 0x1B) : decode w = formatR4 w .slice := by simp only [decode, h]
theorem decode_len {w : Word} (h : field w 0 8 = 0x1C) : decode w = formatR2 w .len := by simp only [decode, h]
theorem decode_sflr {w : Word} (h : field w 0 8 = 0x1D) : decode w = formatR2 w .sflr := by simp only [decode, h]
theorem decode_new {w : Word} (h : field w 0 8 = 0x20) : decode w = formatR1 w .new := by simp only [decode, h]
theorem decode_fbin {w : Word} (h : field w 0 8 = 0x21) : decode w = formatR3 w .fbin := by simp only [decode, h]
theorem decode_fnum {w : Word} (h : field w 0 8 = 0x22) : decode w = formatR2 w .fnum := by simp only [decode, h]
theorem decode_fnumo {w : Word} (h : field w 0 8 = 0x23) : decode w = formatR2 w .fnumo := by simp only [decode, h]
theorem decode_ldbits {w : Word} (h : field w 0 8 = 0x24) : decode w = formatR3 w .ldbits := by simp only [decode, h]
theorem decode_fints {w : Word} (h : field w 0 8 = 0x25) : decode w = formatR3 w .fints := by simp only [decode, h]
theorem decode_octet {w : Word} (h : field w 0 8 = 0x26) : decode w = formatR2 w .octet := by simp only [decode, h]
theorem decode_foff {w : Word} (h : field w 0 8 = 0x27) : decode w = formatR3 w .foff := by simp only [decode, h]
theorem decode_fdec {w : Word} (h : field w 0 8 = 0x28) : decode w = formatR3 w .fdec := by simp only [decode, h]
theorem decode_fhex {w : Word} (h : field w 0 8 = 0x29) : decode w = formatR3 w .fhex := by simp only [decode, h]
theorem decode_fhexn {w : Word} (h : field w 0 8 = 0x2A) : decode w = formatR2 w .fhexn := by simp only [decode, h]
theorem decode_fbytes {w : Word} (h : field w 0 8 = 0x2B) : decode w = formatR3 w .fbytes := by simp only [decode, h]
theorem decode_tooff {w : Word} (h : field w 0 8 = 0x30) : decode w = formatR3 w .tooff := by simp only [decode, h]
theorem decode_tobytes {w : Word} (h : field w 0 8 = 0x31) : decode w = formatR3 w .tobytes := by simp only [decode, h]
theorem decode_tonum {w : Word} (h : field w 0 8 = 0x32) : decode w = formatR2 w .tonum := by simp only [decode, h]
theorem decode_tohex {w : Word} (h : field w 0 8 = 0x33) : decode w = formatR3 w .tohex := by simp only [decode, h]
theorem decode_tostr {w : Word} (h : field w 0 8 = 0x34) : decode w = formatR3 w .tostr := by simp only [decode, h]
theorem decode_tobits {w : Word} (h : field w 0 8 = 0x35) : decode w = formatR3 w .tobits := by simp only [decode, h]
theorem decode_and {w : Word} (h : field w 0 8 = 0x40) : decode w = formatL w .and := by simp only [decode, h]
theorem decode_or {w : Word} (h : field w 0 8 = 0x41) : decode w = formatL w .or := by simp only [decode, h]
theorem decode_xor {w : Word} (h : field w 0 8 = 0x42) : decode w = formatL w .xor := by simp only [decode, h]
theorem decode_not {w : Word} (h : field w 0 8 = 0x43) : decode w = formatR2 w .not := by simp only [decode, h]
theorem decode_popc32 {w : Word} (h : field w 0 8 = 0x48) : decode w = formatR2 w .popc32 := by simp only [decode, h]
theorem decode_popcv {w : Word} (h : field w 0 8 = 0x49) : decode w = formatR2 w .popcv := by simp only [decode, h]
theorem decode_popcb {w : Word} (h : field w 0 8 = 0x4A) : decode w = formatR3 w .popcb := by simp only [decode, h]

end opcodes

end Sys2Proof
end

