-- ==== Sys2Proof/Laws/State.lean ====
section
/-! SUPPORT. The fields of a state after each of its updates: one lemma for each field and update, so that no proof unfolds a
record update. -/

namespace Sys2Proof.Machine

section setX

@[simp] theorem State.setX_cfg (s : State) (i : XIx) (n : Nat) : (s.setX i n).cfg = s.cfg := rfl
@[simp] theorem State.setX_v (s : State) (i : XIx) (n : Nat) : (s.setX i n).v = s.v := rfl
@[simp] theorem State.setX_x (s : State) (i : XIx) (n : Nat) : (s.setX i n).x = s.x.set i (BitVec.ofNat 64 n) := rfl
@[simp] theorem State.setX_pc (s : State) (i : XIx) (n : Nat) : (s.setX i n).pc = s.pc := rfl
@[simp] theorem State.setX_busy (s : State) (i : XIx) (n : Nat) : (s.setX i n).busy = s.busy := rfl
@[simp] theorem State.setX_done (s : State) (i : XIx) (n : Nat) : (s.setX i n).done = s.done := rfl
@[simp] theorem State.setX_fault (s : State) (i : XIx) (n : Nat) : (s.setX i n).fault = s.fault := rfl
@[simp] theorem State.setX_fcode (s : State) (i : XIx) (n : Nat) : (s.setX i n).fcode = s.fcode := rfl
@[simp] theorem State.setX_irqEn (s : State) (i : XIx) (n : Nat) : (s.setX i n).irqEn = s.irqEn := rfl
@[simp] theorem State.setX_fpc (s : State) (i : XIx) (n : Nat) : (s.setX i n).fpc = s.fpc := rfl
@[simp] theorem State.setX_finfo (s : State) (i : XIx) (n : Nat) : (s.setX i n).finfo = s.finfo := rfl
@[simp] theorem State.setX_finst (s : State) (i : XIx) (n : Nat) : (s.setX i n).finst = s.finst := rfl
@[simp] theorem State.setX_mem (s : State) (i : XIx) (n : Nat) : (s.setX i n).mem = s.mem := rfl
@[simp] theorem State.setX_held (s : State) (i : XIx) (n : Nat) : (s.setX i n).held = s.held := rfl
@[simp] theorem State.setX_rst (s : State) (i : XIx) (n : Nat) : (s.setX i n).rst = s.rst := rfl
@[simp] theorem State.setX_inbox (s : State) (i : XIx) (n : Nat) : (s.setX i n).inbox = s.inbox := rfl
@[simp] theorem State.setX_replies (s : State) (i : XIx) (n : Nat) : (s.setX i n).replies = s.replies := rfl
@[simp] theorem State.setX_powerOns (s : State) (i : XIx) (n : Nat) : (s.setX i n).powerOns = s.powerOns := rfl
@[simp] theorem State.setX_softResets (s : State) (i : XIx) (n : Nat) : (s.setX i n).softResets = s.softResets := rfl
@[simp] theorem State.setX_otherWrites (s : State) (i : XIx) (n : Nat) : (s.setX i n).otherWrites = s.otherWrites := rfl

end setX

section setV

@[simp] theorem State.setV_cfg (s : State) (i : VIx) (r : VReg) : (s.setV i r).cfg = s.cfg := rfl
@[simp] theorem State.setV_v (s : State) (i : VIx) (r : VReg) : (s.setV i r).v = s.v.set i r := rfl
@[simp] theorem State.setV_x (s : State) (i : VIx) (r : VReg) : (s.setV i r).x = s.x := rfl
@[simp] theorem State.setV_pc (s : State) (i : VIx) (r : VReg) : (s.setV i r).pc = s.pc := rfl
@[simp] theorem State.setV_busy (s : State) (i : VIx) (r : VReg) : (s.setV i r).busy = s.busy := rfl
@[simp] theorem State.setV_done (s : State) (i : VIx) (r : VReg) : (s.setV i r).done = s.done := rfl
@[simp] theorem State.setV_fault (s : State) (i : VIx) (r : VReg) : (s.setV i r).fault = s.fault := rfl
@[simp] theorem State.setV_fcode (s : State) (i : VIx) (r : VReg) : (s.setV i r).fcode = s.fcode := rfl
@[simp] theorem State.setV_irqEn (s : State) (i : VIx) (r : VReg) : (s.setV i r).irqEn = s.irqEn := rfl
@[simp] theorem State.setV_fpc (s : State) (i : VIx) (r : VReg) : (s.setV i r).fpc = s.fpc := rfl
@[simp] theorem State.setV_finfo (s : State) (i : VIx) (r : VReg) : (s.setV i r).finfo = s.finfo := rfl
@[simp] theorem State.setV_finst (s : State) (i : VIx) (r : VReg) : (s.setV i r).finst = s.finst := rfl
@[simp] theorem State.setV_mem (s : State) (i : VIx) (r : VReg) : (s.setV i r).mem = s.mem := rfl
@[simp] theorem State.setV_held (s : State) (i : VIx) (r : VReg) : (s.setV i r).held = s.held := rfl
@[simp] theorem State.setV_rst (s : State) (i : VIx) (r : VReg) : (s.setV i r).rst = s.rst := rfl
@[simp] theorem State.setV_inbox (s : State) (i : VIx) (r : VReg) : (s.setV i r).inbox = s.inbox := rfl
@[simp] theorem State.setV_replies (s : State) (i : VIx) (r : VReg) : (s.setV i r).replies = s.replies := rfl
@[simp] theorem State.setV_powerOns (s : State) (i : VIx) (r : VReg) : (s.setV i r).powerOns = s.powerOns := rfl
@[simp] theorem State.setV_softResets (s : State) (i : VIx) (r : VReg) : (s.setV i r).softResets = s.softResets := rfl
@[simp] theorem State.setV_otherWrites (s : State) (i : VIx) (r : VReg) : (s.setV i r).otherWrites = s.otherWrites := rfl

end setV

section writeResult

@[simp] theorem State.writeResult_cfg (s : State) (i : VIx) (l : List Bool) : (s.writeResult i l).cfg = s.cfg := rfl
@[simp] theorem State.writeResult_v (s : State) (i : VIx) (l : List Bool) : (s.writeResult i l).v = s.v.set i { bits := l, floor := 0 } := rfl
@[simp] theorem State.writeResult_x (s : State) (i : VIx) (l : List Bool) : (s.writeResult i l).x = s.x := rfl
@[simp] theorem State.writeResult_pc (s : State) (i : VIx) (l : List Bool) : (s.writeResult i l).pc = s.pc := rfl
@[simp] theorem State.writeResult_busy (s : State) (i : VIx) (l : List Bool) : (s.writeResult i l).busy = s.busy := rfl
@[simp] theorem State.writeResult_done (s : State) (i : VIx) (l : List Bool) : (s.writeResult i l).done = s.done := rfl
@[simp] theorem State.writeResult_fault (s : State) (i : VIx) (l : List Bool) : (s.writeResult i l).fault = s.fault := rfl
@[simp] theorem State.writeResult_fcode (s : State) (i : VIx) (l : List Bool) : (s.writeResult i l).fcode = s.fcode := rfl
@[simp] theorem State.writeResult_irqEn (s : State) (i : VIx) (l : List Bool) : (s.writeResult i l).irqEn = s.irqEn := rfl
@[simp] theorem State.writeResult_fpc (s : State) (i : VIx) (l : List Bool) : (s.writeResult i l).fpc = s.fpc := rfl
@[simp] theorem State.writeResult_finfo (s : State) (i : VIx) (l : List Bool) : (s.writeResult i l).finfo = s.finfo := rfl
@[simp] theorem State.writeResult_finst (s : State) (i : VIx) (l : List Bool) : (s.writeResult i l).finst = s.finst := rfl
@[simp] theorem State.writeResult_mem (s : State) (i : VIx) (l : List Bool) : (s.writeResult i l).mem = s.mem := rfl
@[simp] theorem State.writeResult_held (s : State) (i : VIx) (l : List Bool) : (s.writeResult i l).held = s.held := rfl
@[simp] theorem State.writeResult_rst (s : State) (i : VIx) (l : List Bool) : (s.writeResult i l).rst = s.rst := rfl
@[simp] theorem State.writeResult_inbox (s : State) (i : VIx) (l : List Bool) : (s.writeResult i l).inbox = s.inbox := rfl
@[simp] theorem State.writeResult_replies (s : State) (i : VIx) (l : List Bool) : (s.writeResult i l).replies = s.replies := rfl
@[simp] theorem State.writeResult_powerOns (s : State) (i : VIx) (l : List Bool) : (s.writeResult i l).powerOns = s.powerOns := rfl
@[simp] theorem State.writeResult_softResets (s : State) (i : VIx) (l : List Bool) : (s.writeResult i l).softResets = s.softResets := rfl
@[simp] theorem State.writeResult_otherWrites (s : State) (i : VIx) (l : List Bool) : (s.writeResult i l).otherWrites = s.otherWrites := rfl

end writeResult

section memWrite

@[simp] theorem State.memWrite_cfg (s : State) (a : Nat) (bs : List Byte) : (s.memWrite a bs).cfg = s.cfg := rfl
@[simp] theorem State.memWrite_v (s : State) (a : Nat) (bs : List Byte) : (s.memWrite a bs).v = s.v := rfl
@[simp] theorem State.memWrite_x (s : State) (a : Nat) (bs : List Byte) : (s.memWrite a bs).x = s.x := rfl
@[simp] theorem State.memWrite_pc (s : State) (a : Nat) (bs : List Byte) : (s.memWrite a bs).pc = s.pc := rfl
@[simp] theorem State.memWrite_busy (s : State) (a : Nat) (bs : List Byte) : (s.memWrite a bs).busy = s.busy := rfl
@[simp] theorem State.memWrite_done (s : State) (a : Nat) (bs : List Byte) : (s.memWrite a bs).done = s.done := rfl
@[simp] theorem State.memWrite_fault (s : State) (a : Nat) (bs : List Byte) : (s.memWrite a bs).fault = s.fault := rfl
@[simp] theorem State.memWrite_fcode (s : State) (a : Nat) (bs : List Byte) : (s.memWrite a bs).fcode = s.fcode := rfl
@[simp] theorem State.memWrite_irqEn (s : State) (a : Nat) (bs : List Byte) : (s.memWrite a bs).irqEn = s.irqEn := rfl
@[simp] theorem State.memWrite_fpc (s : State) (a : Nat) (bs : List Byte) : (s.memWrite a bs).fpc = s.fpc := rfl
@[simp] theorem State.memWrite_finfo (s : State) (a : Nat) (bs : List Byte) : (s.memWrite a bs).finfo = s.finfo := rfl
@[simp] theorem State.memWrite_finst (s : State) (a : Nat) (bs : List Byte) : (s.memWrite a bs).finst = s.finst := rfl
@[simp] theorem State.memWrite_mem (s : State) (a : Nat) (bs : List Byte) : (s.memWrite a bs).mem = Memory.store s.mem a bs := rfl
@[simp] theorem State.memWrite_held (s : State) (a : Nat) (bs : List Byte) : (s.memWrite a bs).held = s.held := rfl
@[simp] theorem State.memWrite_rst (s : State) (a : Nat) (bs : List Byte) : (s.memWrite a bs).rst = s.rst := rfl
@[simp] theorem State.memWrite_inbox (s : State) (a : Nat) (bs : List Byte) : (s.memWrite a bs).inbox = s.inbox := rfl
@[simp] theorem State.memWrite_replies (s : State) (a : Nat) (bs : List Byte) : (s.memWrite a bs).replies = s.replies := rfl
@[simp] theorem State.memWrite_powerOns (s : State) (a : Nat) (bs : List Byte) : (s.memWrite a bs).powerOns = s.powerOns := rfl
@[simp] theorem State.memWrite_softResets (s : State) (a : Nat) (bs : List Byte) : (s.memWrite a bs).softResets = s.softResets := rfl
@[simp] theorem State.memWrite_otherWrites (s : State) (a : Nat) (bs : List Byte) : (s.memWrite a bs).otherWrites = s.otherWrites := rfl

end memWrite

section enterFault

@[simp] theorem State.enterFault_cfg (s : State) (f : Trap) (n : Nat) (w : Word) : (s.enterFault f n w).cfg = s.cfg := rfl
@[simp] theorem State.enterFault_v (s : State) (f : Trap) (n : Nat) (w : Word) : (s.enterFault f n w).v = s.v := rfl
@[simp] theorem State.enterFault_x (s : State) (f : Trap) (n : Nat) (w : Word) : (s.enterFault f n w).x = s.x := rfl
@[simp] theorem State.enterFault_pc (s : State) (f : Trap) (n : Nat) (w : Word) : (s.enterFault f n w).pc = s.pc := rfl
@[simp] theorem State.enterFault_busy (s : State) (f : Trap) (n : Nat) (w : Word) : (s.enterFault f n w).busy = false := rfl
@[simp] theorem State.enterFault_done (s : State) (f : Trap) (n : Nat) (w : Word) : (s.enterFault f n w).done = s.done := rfl
@[simp] theorem State.enterFault_fault (s : State) (f : Trap) (n : Nat) (w : Word) : (s.enterFault f n w).fault = true := rfl
@[simp] theorem State.enterFault_fcode (s : State) (f : Trap) (n : Nat) (w : Word) : (s.enterFault f n w).fcode = some f := rfl
@[simp] theorem State.enterFault_irqEn (s : State) (f : Trap) (n : Nat) (w : Word) : (s.enterFault f n w).irqEn = s.irqEn := rfl
@[simp] theorem State.enterFault_fpc (s : State) (f : Trap) (n : Nat) (w : Word) : (s.enterFault f n w).fpc = s.pc := rfl
@[simp] theorem State.enterFault_finfo (s : State) (f : Trap) (n : Nat) (w : Word) : (s.enterFault f n w).finfo = sat32 n := rfl
@[simp] theorem State.enterFault_finst (s : State) (f : Trap) (n : Nat) (w : Word) : (s.enterFault f n w).finst = w := rfl
@[simp] theorem State.enterFault_mem (s : State) (f : Trap) (n : Nat) (w : Word) : (s.enterFault f n w).mem = s.mem := rfl
@[simp] theorem State.enterFault_held (s : State) (f : Trap) (n : Nat) (w : Word) : (s.enterFault f n w).held = s.held := rfl
@[simp] theorem State.enterFault_rst (s : State) (f : Trap) (n : Nat) (w : Word) : (s.enterFault f n w).rst = s.rst := rfl
@[simp] theorem State.enterFault_inbox (s : State) (f : Trap) (n : Nat) (w : Word) : (s.enterFault f n w).inbox = s.inbox := rfl
@[simp] theorem State.enterFault_replies (s : State) (f : Trap) (n : Nat) (w : Word) : (s.enterFault f n w).replies = s.replies := rfl
@[simp] theorem State.enterFault_powerOns (s : State) (f : Trap) (n : Nat) (w : Word) : (s.enterFault f n w).powerOns = s.powerOns := rfl
@[simp] theorem State.enterFault_softResets (s : State) (f : Trap) (n : Nat) (w : Word) : (s.enterFault f n w).softResets = s.softResets := rfl
@[simp] theorem State.enterFault_otherWrites (s : State) (f : Trap) (n : Nat) (w : Word) : (s.enterFault f n w).otherWrites = s.otherWrites := rfl

end enterFault

section go

@[simp] theorem State.go_cfg (s : State) : (s.go).cfg = s.cfg := rfl
@[simp] theorem State.go_v (s : State) : (s.go).v = s.v := rfl
@[simp] theorem State.go_x (s : State) : (s.go).x = s.x := rfl
@[simp] theorem State.go_pc (s : State) : (s.go).pc = s.pc := rfl
@[simp] theorem State.go_busy (s : State) : (s.go).busy = true := rfl
@[simp] theorem State.go_done (s : State) : (s.go).done = false := rfl
@[simp] theorem State.go_fault (s : State) : (s.go).fault = false := rfl
@[simp] theorem State.go_fcode (s : State) : (s.go).fcode = none := rfl
@[simp] theorem State.go_irqEn (s : State) : (s.go).irqEn = s.irqEn := rfl
@[simp] theorem State.go_fpc (s : State) : (s.go).fpc = s.fpc := rfl
@[simp] theorem State.go_finfo (s : State) : (s.go).finfo = s.finfo := rfl
@[simp] theorem State.go_finst (s : State) : (s.go).finst = s.finst := rfl
@[simp] theorem State.go_mem (s : State) : (s.go).mem = s.mem := rfl
@[simp] theorem State.go_held (s : State) : (s.go).held = s.held := rfl
@[simp] theorem State.go_rst (s : State) : (s.go).rst = s.rst := rfl
@[simp] theorem State.go_inbox (s : State) : (s.go).inbox = s.inbox := rfl
@[simp] theorem State.go_replies (s : State) : (s.go).replies = s.replies := rfl
@[simp] theorem State.go_powerOns (s : State) : (s.go).powerOns = s.powerOns := rfl
@[simp] theorem State.go_softResets (s : State) : (s.go).softResets = s.softResets := rfl
@[simp] theorem State.go_otherWrites (s : State) : (s.go).otherWrites = s.otherWrites := rfl

end go

section tick

@[simp] theorem State.tick_cfg (s : State) : s.tick.cfg = s.cfg := by unfold State.tick; split <;> rfl
@[simp] theorem State.tick_v (s : State) : s.tick.v = s.v := by unfold State.tick; split <;> rfl
@[simp] theorem State.tick_x (s : State) : s.tick.x = s.x := by unfold State.tick; split <;> rfl
@[simp] theorem State.tick_pc (s : State) : s.tick.pc = s.pc := by unfold State.tick; split <;> rfl
@[simp] theorem State.tick_busy (s : State) : s.tick.busy = s.busy := by unfold State.tick; split <;> rfl
@[simp] theorem State.tick_done (s : State) : s.tick.done = s.done := by unfold State.tick; split <;> rfl
@[simp] theorem State.tick_fault (s : State) : s.tick.fault = s.fault := by unfold State.tick; split <;> rfl
@[simp] theorem State.tick_fcode (s : State) : s.tick.fcode = s.fcode := by unfold State.tick; split <;> rfl
@[simp] theorem State.tick_irqEn (s : State) : s.tick.irqEn = s.irqEn := by unfold State.tick; split <;> rfl
@[simp] theorem State.tick_fpc (s : State) : s.tick.fpc = s.fpc := by unfold State.tick; split <;> rfl
@[simp] theorem State.tick_finfo (s : State) : s.tick.finfo = s.finfo := by unfold State.tick; split <;> rfl
@[simp] theorem State.tick_finst (s : State) : s.tick.finst = s.finst := by unfold State.tick; split <;> rfl
@[simp] theorem State.tick_mem (s : State) : s.tick.mem = s.mem := by unfold State.tick; split <;> rfl
@[simp] theorem State.tick_held (s : State) : s.tick.held = s.held := by unfold State.tick; split <;> rfl
@[simp] theorem State.tick_rst (s : State) : s.tick.rst = s.rst := by unfold State.tick; split <;> rfl
@[simp] theorem State.tick_replies (s : State) : s.tick.replies = s.replies := by unfold State.tick; split <;> rfl
@[simp] theorem State.tick_powerOns (s : State) : s.tick.powerOns = s.powerOns := by unfold State.tick; split <;> rfl
@[simp] theorem State.tick_softResets (s : State) : s.tick.softResets = s.softResets := by unfold State.tick; split <;> rfl
@[simp] theorem State.tick_otherWrites (s : State) : s.tick.otherWrites = s.otherWrites := by unfold State.tick; split <;> rfl

end tick

end Sys2Proof.Machine
end

