-- ==== Sys2Proof/Laws/Memory.lean ====
section
/-! SUPPORT. The register files and DMEM: what a write leaves, what a read answers after a write, and that every operation over
memory keeps the canonical form. -/

namespace Sys2Proof.Machine

section registers

/-- A register file after a write holds the new value in the register written and the old value in every other one
(10_state.md R22). -/
theorem File8.get_set {α : Type} (f : File8 α) (i j : Fin 8) (a : α) :
    (f.set i a).get j = if j = i then a else f.get j := by
  fin_cases i <;> fin_cases j <;> rfl

@[simp] theorem File8.get_set_same {α : Type} (f : File8 α) (i : Fin 8) (a : α) : (f.set i a).get i = a := by
  simp [File8.get_set]

theorem File8.get_set_ne {α : Type} (f : File8 α) {i j : Fin 8} (a : α) (h : j ≠ i) :
    (f.set i a).get j = f.get j := by
  simp [File8.get_set, h]

end registers

section cells

@[simp] theorem Memory.cells_nil (a : Nat) : Memory.cells a [] = [] := rfl

@[simp] theorem Memory.cells_cons (a : Nat) (b : Byte) (bs : List Byte) :
    Memory.cells a (b :: bs) = (a, b) :: Memory.cells (a + 1) bs := rfl

theorem Memory.cells_range {a : Nat} {bs : List Byte} {c : Host.Cell} (h : c ∈ Memory.cells a bs) :
    a ≤ c.1 ∧ c.1 < a + bs.length := by
  induction bs generalizing a with
  | nil => simp at h
  | cons b bs ih =>
    simp only [Memory.cells_cons, List.mem_cons] at h
    rcases h with rfl | h
    · simp
    · have := ih h
      simp only [List.length_cons]
      omega

theorem Memory.cells_wf (a : Nat) (bs : List Byte) : Memory.wf (Memory.cells a bs) := by
  induction bs generalizing a with
  | nil => simp [Memory.wf]
  | cons b bs ih =>
    refine List.pairwise_cons.2 ⟨fun c hc => ?_, ih (a + 1)⟩
    have := Memory.cells_range hc
    simp only at this ⊢
    omega

theorem Memory.listed_cells (a b : Nat) (bs : List Byte) :
    Memory.listed (Memory.cells a bs) b = if a ≤ b then bs[b - a]? else none := by
  induction bs generalizing a with
  | nil => simp [Memory.listed]
  | cons x bs ih =>
    have ih' := ih (a + 1)
    simp only [Memory.listed, Memory.cells_cons, List.lookup_cons] at ih' ⊢
    rcases Nat.lt_trichotomy b a with h | h | h
    · have : (b == a) = false := by simp; omega
      simp [this, ih', show ¬ a + 1 ≤ b by omega, show ¬ a ≤ b by omega]
    · subst h; simp
    · have : (b == a) = false := by simp; omega
      simp [this, ih', show a + 1 ≤ b by omega, show a ≤ b by omega]
      rw [show b - a = (b - (a + 1)) + 1 by omega, List.getElem?_cons_succ]

end cells

section store

theorem Memory.listed_append (m k : Memory) (b : Nat) :
    Memory.listed (m ++ k) b = (Memory.listed m b).or (Memory.listed k b) := by
  simp [Memory.listed, List.lookup_append]

theorem Memory.listed_filter (m : Memory) (p : Nat → Bool) (b : Nat) :
    Memory.listed (m.filter fun c => p c.1) b = if p b then Memory.listed m b else none := by
  induction m with
  | nil => simp [Memory.listed]
  | cons c m ih =>
    obtain ⟨x, y⟩ := c
    simp only [Memory.listed] at ih
    by_cases hb : b = x
    · subst hb
      cases hp : p b <;> simp [Memory.listed, hp, ih]
    · have hbx : (b == x) = false := by simp [hb]
      cases hp : p x <;> simp [Memory.listed, List.lookup_cons, hp, hbx, ih]

/-- A read after a store: the stored byte inside the range, what was there before outside it. -/
theorem Memory.listed_store (m : Memory) (a : Nat) (bs : List Byte) (b : Nat) :
    Memory.listed (Memory.store m a bs) b =
      if a ≤ b ∧ b < a + bs.length then bs[b - a]? else Memory.listed m b := by
  have h1 := Memory.listed_filter m (fun x => x < a) b
  have h2 := Memory.listed_filter m (fun x => a + bs.length ≤ x) b
  simp only [Memory.store, Memory.listed_append, h1, h2, Memory.listed_cells, decide_eq_true_eq]
  by_cases hlt : b < a
  · simp [hlt, show ¬ a ≤ b by omega, show ¬ a + bs.length ≤ b by omega]
  · by_cases hin : b < a + bs.length
    · simp [hlt, hin, show a ≤ b by omega, show ¬ a + bs.length ≤ b by omega]
    · have : bs[b - a]? = none := by simp; omega
      simp [hlt, hin, this, show a + bs.length ≤ b by omega]

/-- A store lists nothing but what was listed and what it stores. -/
theorem Memory.mem_store {m : Memory} {a : Nat} {bs : List Byte} {c : Host.Cell}
    (h : c ∈ Memory.store m a bs) : c ∈ m ∨ (a ≤ c.1 ∧ c.1 < a + bs.length) := by
  simp only [Memory.store, List.mem_append, List.mem_filter] at h
  rcases h with (h | h) | h
  · exact .inl h.1
  · exact .inr (Memory.cells_range h)
  · exact .inl h.1

/-- A store keeps the canonical form. -/
theorem Memory.store_wf {m : Memory} (h : Memory.wf m) (a : Nat) (bs : List Byte) :
    Memory.wf (Memory.store m a bs) := by
  refine List.pairwise_append.2 ⟨List.pairwise_append.2 ⟨h.filter _, Memory.cells_wf a bs, ?_⟩, h.filter _, ?_⟩
  · intro c hc d hd
    have := Memory.cells_range hd
    simp only [List.mem_filter, decide_eq_true_eq] at hc
    omega
  · intro c hc d hd
    simp only [List.mem_append, List.mem_filter, decide_eq_true_eq] at hc hd
    rcases hc with hc | hc
    · omega
    · have := Memory.cells_range hc
      omega

/-- Storing nothing changes nothing in a canonical memory. -/
theorem Memory.store_nil {m : Memory} (h : Memory.wf m) (a : Nat) : Memory.store m a [] = m := by
  induction m with
  | nil => simp [Memory.store]
  | cons c m ih =>
    have hc := List.pairwise_cons.1 h
    have ih := ih hc.2
    simp only [Memory.store, Memory.cells_nil, List.append_nil, List.length_nil, Nat.add_zero] at ih ⊢
    by_cases hlt : c.1 < a
    · simp [hlt, show ¬ a ≤ c.1 by omega, ih]
    · have h1 : m.filter (fun d => d.1 < a) = [] := by
        simp only [List.filter_eq_nil_iff, decide_eq_true_eq]
        intro d hd
        have := hc.1 d hd
        omega
      have h2 : m.filter (fun d => a ≤ d.1) = m := by
        simp only [List.filter_eq_self, decide_eq_true_eq]
        intro d hd
        have := hc.1 d hd
        omega
      simp [hlt, show a ≤ c.1 by omega, h1, h2]

/-- Storing nothing leaves every read as it was, in any memory. -/
theorem Memory.listed_store_nil (m : Memory) (a b : Nat) :
    Memory.listed (Memory.store m a []) b = Memory.listed m b := by
  simp [Memory.listed_store]

end store

section bytes

/-- Little-endian bytes as a number (20_memory.md R63), in the library's terms. -/
theorem leNat_eq_ofDigits (bs : List Byte) : leNat bs = Nat.ofDigits 256 (bs.map BitVec.toNat) := by
  induction bs with
  | nil => rfl
  | cons b bs ih => rw [List.map_cons, Nat.ofDigits_cons, ← ih]; rfl

/-- What DMEM reads as after a MemWrite (20_memory.md R62). -/
theorem State.byteAt_memWrite (s : State) (a : Nat) (bs : List Byte) (b : Nat) :
    (s.memWrite a bs).byteAt b = if a ≤ b ∧ b < a + bs.length then bs.getD (b - a) 0 else s.byteAt b := by
  simp only [State.byteAt, State.memWrite_mem, State.memWrite_powerOns, Memory.listed_store]
  split
  · rename_i h
    have : b - a < bs.length := by omega
    simp [List.getElem?_eq_getElem this]
  · rfl

/-- A byte depends on the memory and on the number of power-on resets only. -/
theorem State.byteAt_congr {s t : State} (h : t.mem = s.mem) (hp : t.powerOns = s.powerOns) (a : Nat) :
    t.byteAt a = s.byteAt a := by
  simp [State.byteAt, h, hp]

@[simp] theorem State.length_memRead (s : State) (a n : Nat) : (s.memRead a n).length = n := by simp [State.memRead]

theorem State.getElem?_memRead (s : State) (a n j : Nat) :
    (s.memRead a n)[j]? = if j < n then some (s.byteAt (a + j)) else none := by
  simp [State.memRead]
  split <;> simp_all

end bytes

section canonical

/-- The abandoned destination bytes of a soft reset keep the canonical form, and list nothing new but what the command in
progress would have listed (70_reset_and_hazards.md R341). -/
theorem State.cutShort_cases (s : State) (h : Memory.wf s.mem) :
    Memory.wf s.cutShort ∧
      ∀ c ∈ s.cutShort, c ∈ s.mem ∨ ∃ t, engineStep s = .next t ∧ ∃ d ∈ t.mem, d.1 = c.1 := by
  unfold State.cutShort
  split
  case h_2 => exact ⟨h, fun c hc => .inl hc⟩
  case h_1 t ht =>
    suffices H : ∀ (l m : Memory), (∀ c ∈ l, c ∈ t.mem) → Memory.wf m →
        (∀ c ∈ m, c ∈ s.mem ∨ ∃ d ∈ t.mem, d.1 = c.1) →
        Memory.wf (l.foldl (fun m c =>
          if Memory.listed m c.1 = some c.2 then m
          else if Config.cutShortStored s.softResets c.1 then Memory.store m c.1 [c.2] else m) m) ∧
        ∀ c ∈ l.foldl (fun m c =>
          if Memory.listed m c.1 = some c.2 then m
          else if Config.cutShortStored s.softResets c.1 then Memory.store m c.1 [c.2] else m) m,
          c ∈ s.mem ∨ ∃ d ∈ t.mem, d.1 = c.1 by
      have := H t.mem s.mem (fun c hc => hc) h (fun c hc => .inl hc)
      refine ⟨this.1, fun c hc => ?_⟩
      rcases this.2 c hc with hm | hd
      · exact .inl hm
      · exact .inr ⟨t, ht, hd⟩
    intro l
    induction l with
    | nil => exact fun m _ hm hc => ⟨hm, hc⟩
    | cons e l ih =>
      intro m hl hm hc
      simp only [List.foldl_cons]
      have hl' : ∀ c ∈ l, c ∈ t.mem := fun c hc => hl c (List.mem_cons_of_mem _ hc)
      split
      · exact ih m hl' hm hc
      · split
        · refine ih _ hl' (Memory.store_wf hm _ _) fun c hcs => ?_
          rcases Memory.mem_store hcs with h1 | h1
          · exact hc c h1
          · refine .inr ⟨e, hl e (List.mem_cons_self ..), ?_⟩
            simp only [List.length_cons, List.length_nil] at h1
            omega
        · exact ih m hl' hm hc

/-- A host write into the windows changes nothing but memory. -/
theorem State.writeWindow_eq (s : State) (off : Nat) (bs : List Byte) :
    s.writeWindow off bs = { s with mem := (s.writeWindow off bs).mem } := by
  induction bs generalizing s off with
  | nil => rfl
  | cons b bs ih =>
    simp only [State.writeWindow]
    rw [ih]
    split <;> rfl

/-- A host write into the windows keeps the canonical form, and lists nothing new outside DMEM. -/
theorem State.writeWindow_wf (s : State) (off : Nat) (bs : List Byte) (h : Memory.wf s.mem) :
    Memory.wf (s.writeWindow off bs).mem ∧
      ∀ c ∈ (s.writeWindow off bs).mem, c ∈ s.mem ∨ c.1 < s.cfg.dmemBytes := by
  induction bs generalizing s off with
  | nil => exact ⟨h, fun c hc => .inl hc⟩
  | cons b bs ih =>
    simp only [State.writeWindow]
    split
    case isFalse => exact ih s (off + 1) h
    case isTrue hw =>
      have := ih (s.memWrite (off - dmemBase) [b]) (off + 1) (Memory.store_wf h _ _)
      refine ⟨this.1, fun c hc => ?_⟩
      rcases this.2 c hc with hm | hm
      · rcases Memory.mem_store hm with h1 | h1
        · exact .inl h1
        · refine .inr ?_
          simp only [List.length_cons, List.length_nil] at h1
          omega
      · exact .inr hm

/-- What DMEM reads as after a host write into the windows: the written byte where the range is DMEM's, else what was there. -/
theorem State.byteAt_writeWindow (s : State) (off : Nat) (bs : List Byte) (b : Nat) :
    (s.writeWindow off bs).byteAt b =
      if b < s.cfg.dmemBytes ∧ off ≤ dmemBase + b ∧ dmemBase + b < off + bs.length then bs.getD (dmemBase + b - off) 0
      else s.byteAt b := by
  induction bs generalizing s off with
  | nil =>
    rw [if_neg (by simp only [List.length_nil]; omega)]
    rfl
  | cons x bs ih =>
    rw [State.writeWindow, ih]
    have hs : ∀ t : State, t = (if inDmemWindow s.cfg off then s.memWrite (off - dmemBase) [x] else s) →
        t.cfg = s.cfg ∧ t.byteAt b = if b < s.cfg.dmemBytes ∧ off = dmemBase + b then x else s.byteAt b := by
      rintro t rfl
      split
      case isTrue h =>
        refine ⟨rfl, ?_⟩
        rw [State.byteAt_memWrite]
        by_cases hb : off = dmemBase + b
        · have : b < s.cfg.dmemBytes := by omega
          subst hb
          simp [this]
        · rw [if_neg (by simp; omega), if_neg (by tauto)]
      case isFalse h =>
        refine ⟨rfl, ?_⟩
        rw [if_neg]
        rintro ⟨h1, rfl⟩
        exact h ⟨by omega, by omega⟩
    obtain ⟨hc, hb⟩ := hs _ rfl
    rw [hc, hb]
    by_cases h1 : b < s.cfg.dmemBytes ∧ off = dmemBase + b
    · obtain ⟨h1, rfl⟩ := h1
      simp [h1]
    · rw [if_neg h1]
      by_cases h2 : b < s.cfg.dmemBytes ∧ off + 1 ≤ dmemBase + b ∧ dmemBase + b < off + 1 + bs.length
      · rw [if_pos h2, if_pos (by simp; omega), show dmemBase + b - off = (dmemBase + b - (off + 1)) + 1 by omega]
        simp
      · rw [if_neg h2, if_neg (by simp; omega)]

/-- All that a host write of another width can do: nothing, or free values in the bytes of DMEM that it reaches. -/
theorem State.writeOtherWidth_cases (s : State) (off : Nat) (w : Width) :
    (reachesDmem s.cfg off w = false ∧ s.writeOtherWidth off w = s) ∨
      ∃ bs : List Byte, bs.length = w.bytes ∧ reachesDmem s.cfg off w = true ∧
        s.writeOtherWidth off w = { s.writeWindow off bs with otherWrites := s.otherWrites + 1 } := by
  unfold State.writeOtherWidth
  split
  case isTrue h => exact .inr ⟨_, by simp, h, rfl⟩
  case isFalse h => exact .inl ⟨by simpa using h, rfl⟩

/-- A host write outside the registers changes nothing but memory and the count of writes of other widths. -/
theorem State.hostWrite_eq_of_not_reg (s : State) {off : Nat} {w : Width} (d : Word) (h : ¬isRegAccess off w) :
    s.hostWrite off w d =
      { s with mem := (s.hostWrite off w d).mem, otherWrites := (s.hostWrite off w d).otherWrites } := by
  rw [State.hostWrite, if_neg h]
  split
  · rw [State.writeWindow_eq]
  · rcases s.writeOtherWidth_cases off w with ⟨-, he⟩ | ⟨bs, -, -, he⟩
    · rw [he]
    · rw [he, State.writeWindow_eq]

/-- A host write outside the registers keeps the canonical form, and lists nothing new outside DMEM. -/
theorem State.hostWrite_wf_of_not_reg (s : State) {off : Nat} {w : Width} (d : Word) (h : ¬isRegAccess off w)
    (hm : Memory.wf s.mem) :
    Memory.wf (s.hostWrite off w d).mem ∧
      ∀ c ∈ (s.hostWrite off w d).mem, c ∈ s.mem ∨ c.1 < s.cfg.dmemBytes := by
  rw [State.hostWrite, if_neg h]
  split
  · exact s.writeWindow_wf off _ hm
  · rcases s.writeOtherWidth_cases off w with ⟨-, he⟩ | ⟨bs, -, -, he⟩
    · rw [he]; exact ⟨hm, fun c hc => .inl hc⟩
    · rw [he]; exact s.writeWindow_wf off bs hm

/-- A host write outside the registers changes no byte of DMEM outside its range. -/
theorem State.byteAt_hostWrite_of_outside (s : State) {off : Nat} {w : Width} (d : Word) (h : ¬isRegAccess off w) {b : Nat}
    (hb : dmemBase + b < off ∨ off + w.bytes ≤ dmemBase + b) : (s.hostWrite off w d).byteAt b = s.byteAt b := by
  rw [State.hostWrite, if_neg h]
  split
  · rw [State.byteAt_writeWindow, if_neg]
    have := List.length_take_le w.bytes (u32Bytes d.toNat)
    omega
  · rcases s.writeOtherWidth_cases off w with ⟨-, he⟩ | ⟨bs, hl, -, he⟩
    · rw [he]
    · rw [he]
      refine (State.byteAt_writeWindow s off bs b).trans (if_neg ?_)
      omega

/-- The memory of the machine right after reset is canonical. -/
theorem State.reset_mem_wf : Memory.wf State.reset.mem := List.Pairwise.nil

end canonical

end Sys2Proof.Machine
end

