-- ==== Sys2Proof/Laws/Ops.lean ====
section
/-! SUPPORT. What each shared operation of the commands can do, said once: the provers cite these instead of unfolding. -/

namespace Sys2Proof.Machine

section outcomes

/-- A completed command answers its state with PC advanced by 4. -/
@[simp] theorem State.complete_eq_next (s t : State) : s.complete = .next t ↔ t = { s with pc := s.pc + 4 } := by
  simp [State.complete, eq_comm]

/-- A raised fault answers the fault entry, with the command word. -/
@[simp] theorem State.raise_eq_next (s t : State) (f : Trap) (n : Nat) :
    s.raise f n = .next t ↔ t = s.enterFault f n s.commandWord := by
  simp [State.raise, eq_comm]

theorem State.fromSource_in {s : State} {a n : Nat} (h : InRange s.cfg a n) (use : List Byte → Result) :
    s.fromSource a n use = use (s.memRead a n) := by
  simp only [State.fromSource, if_pos h]

theorem State.fromSource_out {s : State} {a n : Nat} (h : ¬InRange s.cfg a n) (use : List Byte → Result) :
    s.fromSource a n use = s.raise .memRange a := by
  simp only [State.fromSource, if_neg h]

theorem State.inDomain_in {s : State} {n : Nat} (h : n < 2 ^ s.cfg.numBits) (use : Nat → Result) :
    s.inDomain n use = use n := by
  simp [State.inDomain, Nat.not_le.2 h]

theorem State.inDomain_out {s : State} {n : Nat} (h : 2 ^ s.cfg.numBits ≤ n) (use : Nat → Result) :
    s.inDomain n use = s.raise .overflow 0 := by
  simp [State.inDomain, h]

theorem State.inCapacity_in {s : State} {n : Nat} (h : n ≤ s.cfg.maxLen) (use : Result) :
    s.inCapacity n use = use := by
  simp [State.inCapacity, Nat.not_lt.2 h]

theorem State.inCapacity_out {s : State} {n : Nat} (h : s.cfg.maxLen < n) (use : Result) :
    s.inCapacity n use = s.raise .capacity n := by
  simp [State.inCapacity, h]

theorem State.toDest_in {s : State} {a : Nat} {bs : List Byte} (h : InRange s.cfg a bs.length) (rd : XIx) (n : Nat) :
    s.toDest rd a bs n = ((s.memWrite a bs).setX rd n).complete := by
  simp only [State.toDest, if_pos h]

theorem State.toDest_out {s : State} {a : Nat} {bs : List Byte} (h : ¬InRange s.cfg a bs.length) (rd : XIx) (n : Nat) :
    s.toDest rd a bs n = s.raise .memRange a := by
  simp only [State.toDest, if_neg h]

/-- All that reading a source range can do: MEM_RANGE, or what is done with the bytes. -/
theorem State.fromSource_cases (s : State) (a n : Nat) (use : List Byte → Result) :
    (InRange s.cfg a n ∧ s.fromSource a n use = use (s.memRead a n)) ∨
      (¬InRange s.cfg a n ∧ s.fromSource a n use = s.raise .memRange a) :=
  if h : InRange s.cfg a n then .inl ⟨h, fromSource_in h use⟩ else .inr ⟨h, fromSource_out h use⟩

/-- All that a domain check can do: OVERFLOW, or what is done with the number. -/
theorem State.inDomain_cases (s : State) (n : Nat) (use : Nat → Result) :
    (n < 2 ^ s.cfg.numBits ∧ s.inDomain n use = use n) ∨
      (2 ^ s.cfg.numBits ≤ n ∧ s.inDomain n use = s.raise .overflow 0) :=
  if h : n < 2 ^ s.cfg.numBits then .inl ⟨h, inDomain_in h use⟩ else .inr ⟨Nat.not_lt.1 h, inDomain_out (Nat.not_lt.1 h) use⟩

/-- All that a capacity check can do: CAPACITY, or the command. -/
theorem State.inCapacity_cases (s : State) (n : Nat) (use : Result) :
    (n ≤ s.cfg.maxLen ∧ s.inCapacity n use = use) ∨
      (s.cfg.maxLen < n ∧ s.inCapacity n use = s.raise .capacity n) :=
  if h : n ≤ s.cfg.maxLen then .inl ⟨h, inCapacity_in h use⟩ else .inr ⟨Nat.not_le.1 h, inCapacity_out (Nat.not_le.1 h) use⟩

/-- All that an export can do: MEM_RANGE, or the bytes stored, the count in rd and the command complete. -/
theorem State.toDest_cases (s : State) (rd : XIx) (a : Nat) (bs : List Byte) (n : Nat) :
    (InRange s.cfg a bs.length ∧ s.toDest rd a bs n = ((s.memWrite a bs).setX rd n).complete) ∨
      (¬InRange s.cfg a bs.length ∧ s.toDest rd a bs n = s.raise .memRange a) :=
  if h : InRange s.cfg a bs.length then .inl ⟨h, toDest_in h rd n⟩ else .inr ⟨h, toDest_out h rd n⟩

end outcomes

section vectors

@[simp] theorem length_zeros (k : Nat) : (zeros k).length = k := by simp [zeros]

/-- Fill appends zeros, as many as are missing (40_bit_store.md R100). -/
theorem VReg.fill_eq (r : VReg) (t : Nat) :
    r.fill t = { r with bits := r.bits ++ List.replicate (t - r.bits.length) false } := by
  unfold VReg.fill zeros
  split
  · rfl
  · rename_i h
    simp [show t - r.bits.length = 0 by omega]

@[simp] theorem VReg.fill_floor (r : VReg) (t : Nat) : (r.fill t).floor = r.floor := by rw [VReg.fill_eq]

@[simp] theorem VReg.fill_length (r : VReg) (t : Nat) : (r.fill t).bits.length = max r.bits.length t := by
  rw [VReg.fill_eq]
  simp only [List.length_append, List.length_replicate]
  omega

@[simp] theorem VReg.cover_floor (r : VReg) (k : Nat) : (r.cover k).floor = r.floor := VReg.fill_floor r _

/-- Cover makes the index exist and restores the floor (40_bit_store.md R101). -/
@[simp] theorem VReg.cover_length (r : VReg) (k : Nat) :
    (r.cover k).bits.length = max r.bits.length (max (k + 1) r.floor) := VReg.fill_length r _

end vectors

section arrivals

theorem State.release_busy {s : State} (h : s.busy = true) : s.release = none := by simp [State.release, h]

theorem State.due_empty {s : State} (h : s.inbox = []) : s.due = none := by simp [State.due, h]

/-- Which accesses reach DMEM (20_memory.md R61). -/
theorem reachesDmem_iff (c : Config) (off : Nat) (w : Width) :
    reachesDmem c off w = true ↔ ∃ j < w.bytes, inDmemWindow c (off + j) := by
  simp only [reachesDmem, List.any_eq_true, List.mem_range]
  exact exists_congr fun j => and_congr_right fun _ => by rw [decide_eq_true_iff]

/-- Which accesses a run holds (20_memory.md R68). -/
theorem HostAccess.shared_iff (c : Config) (a : HostAccess) :
    a.shared c = true ↔ (isRegAccess a.off a.width ∧ isStallingReg a.off) ∨ reachesDmem c a.off a.width = true := by
  rw [HostAccess.shared, Bool.or_eq_true, Bool.and_eq_true, decide_eq_true_iff, decide_eq_true_iff]

/-- All that the arrival of a host access can do: ignored under `rst`, held behind a run, or performed. -/
theorem State.arrive_cases (s : State) (a : HostAccess) :
    (s.rst = true ∧ s.arrive a = s.ignore a) ∨
    (s.rst = false ∧ s.busy = true ∧ a.shared s.cfg = true ∧ s.arrive a = { s with held := s.held ++ [a] }) ∨
    (s.rst = false ∧ (s.busy = false ∨ a.shared s.cfg = false) ∧ s.arrive a = s.perform a) := by
  unfold State.arrive
  cases s.rst <;> cases s.busy <;> cases a.shared s.cfg <;> simp

/-- All that one step of the block can do. -/
theorem blockStep_cases (s : State) :
    (∃ a rest, s.release = some (a, rest) ∧ blockStep s = .next (({ s with held := rest } : State).perform a)) ∨
    (∃ e rest, s.release = none ∧ s.due = some (e, rest) ∧
      blockStep s = .next (({ s with inbox := rest } : State).event e)) ∨
    (s.release = none ∧ s.due = none ∧ s.busy = true ∧ blockStep s = engineStep s.tick) ∨
    (s.release = none ∧ s.due = none ∧ s.busy = false ∧ blockStep s = .next s.tick) := by
  unfold blockStep
  rcases hr : s.release with _ | ⟨a, rest⟩
  · rcases hd : s.due with _ | ⟨e, rest⟩
    · cases hb : s.busy <;> simp
    · exact .inr (.inl ⟨e, rest, rfl, rfl, rfl⟩)
  · exact .inl ⟨a, rest, rfl, rfl⟩

/-- All that the engine can do in one command cycle (45_sequencer.md R280). -/
theorem engineStep_cases (s : State) :
    (s.pc.toNat % 4 ≠ 0 ∧ engineStep s = .next (s.enterFault .fetchMisaligned s.pc.toNat 0)) ∨
    (s.pc.toNat % 4 = 0 ∧ s.cfg.dmemBytes < s.pc.toNat + 4 ∧
      engineStep s = .next (s.enterFault .fetchRange s.pc.toNat 0)) ∨
    (s.pc.toNat % 4 = 0 ∧ s.pc.toNat + 4 ≤ s.cfg.dmemBytes ∧
      ((∃ e, decode s.commandWord = .error e ∧ engineStep s = .next (s.enterFault .illegal 0 s.commandWord)) ∨
        ∃ i, decode s.commandWord = .ok i ∧ engineStep s = exec i s)) := by
  unfold engineStep
  by_cases h1 : s.pc.toNat % 4 = 0
  · by_cases h2 : s.cfg.dmemBytes < s.pc.toNat + 4
    · simp [h1, h2]
    · rcases hd : decode s.commandWord with e | i
      · simp [h1, h2]; omega
      · simp [h1, h2]; omega
  · simp [h1]

end arrivals

end Sys2Proof.Machine
end

