-- ==== Sys2Proof/Laws/PerInstr.lean ====
section
/-! SUPPORT. One lemma for each command of `Instr`: its encoding fits the 32 bits of a command word (30_encoding.md R80), so
that no bit of it is lost when the word is made. -/

namespace Sys2Proof.Laws

theorem legalOps_iff (ops : List VIx) :
    Instr.legalOps ops = true ↔ 1 ≤ ops.length ∧ ops.length ≤ 6 := by
  unfold Instr.legalOps Config.maxOps
  constructor
  · intro h
    have := (Bool.and_eq_true _ _).mp h
    exact ⟨of_decide_eq_true this.1, of_decide_eq_true this.2⟩
  · intro h
    exact (Bool.and_eq_true _ _).mpr ⟨decide_eq_true h.1, decide_eq_true h.2⟩

theorem packXI_lt {op : Nat} (h : op < 2 ^ 8) (rd : XIx) (imm : BitVec 16) : packXI op rd imm < 2 ^ 32 := by
  have := rd.isLt
  have := imm.isLt
  unfold packXI
  omega

theorem packR_lt {op : Nat} (h : op < 2 ^ 8) (rd ra rb rc : Fin 8) : packR op rd ra rb rc < 2 ^ 32 := by
  have := rd.isLt
  have := ra.isLt
  have := rb.isLt
  have := rc.isLt
  unfold packR
  omega

theorem packSlots_lt (ops : List VIx) : packSlots ops < 8 ^ ops.length := by
  induction ops with
  | nil => simp [packSlots]
  | cons r ops ih =>
    have := r.isLt
    simp only [packSlots, List.foldr_cons, List.length_cons, pow_succ] at ih ⊢
    omega

theorem packL_lt {op : Nat} (h : op < 2 ^ 8) (rd : VIx) {ops : List VIx} (hl : Instr.legalOps ops = true) :
    packL op rd ops < 2 ^ 32 := by
  have hn : ops.length ≤ 6 := (legalOps_iff ops).1 hl |>.2
  have h1 : packSlots ops < 8 ^ 6 := lt_of_lt_of_le (packSlots_lt ops) (Nat.pow_le_pow_right (by omega) hn)
  have := rd.isLt
  unfold packL
  omega

/-- The encoding of a well-formed command is a number of 32 bits. -/
def EncodingFits.Statement (i : Instr) : Prop := i.wellFormed = true → encodeNat i < 2 ^ 32

theorem EncodingFits.halt : EncodingFits.Statement (.halt) := fun _ => by decide
theorem EncodingFits.nop : EncodingFits.Statement (.nop) := fun _ => by decide
theorem EncodingFits.li (rd : XIx) (imm : BitVec 16) : EncodingFits.Statement (.li rd imm) := fun _ => packXI_lt (by decide) rd imm
theorem EncodingFits.lis (rd : XIx) (imm : BitVec 16) : EncodingFits.Statement (.lis rd imm) := fun _ => packXI_lt (by decide) rd imm
theorem EncodingFits.fill (rd : VIx) (ra : XIx) : EncodingFits.Statement (.fill rd ra) := fun _ => packR_lt (by decide) rd ra 0 0
theorem EncodingFits.set (rd : VIx) (ra rb : XIx) : EncodingFits.Statement (.set rd ra rb) := fun _ => packR_lt (by decide) rd ra rb 0
theorem EncodingFits.setv (rd ra : VIx) : EncodingFits.Statement (.setv rd ra) := fun _ => packR_lt (by decide) rd ra 0 0
theorem EncodingFits.get (rd : XIx) (ra : VIx) (rb : XIx) : EncodingFits.Statement (.get rd ra rb) := fun _ => packR_lt (by decide) rd ra rb 0
theorem EncodingFits.clr (rd : VIx) : EncodingFits.Statement (.clr rd) := fun _ => packR_lt (by decide) rd 0 0 0
theorem EncodingFits.clone (rd ra : VIx) : EncodingFits.Statement (.clone rd ra) := fun _ => packR_lt (by decide) rd ra 0 0
theorem EncodingFits.eq (rd : XIx) (ra rb : VIx) : EncodingFits.Statement (.eq rd ra rb) := fun _ => packR_lt (by decide) rd ra rb 0
theorem EncodingFits.push (rd : VIx) (ra : XIx) : EncodingFits.Statement (.push rd ra) := fun _ => packR_lt (by decide) rd ra 0 0
theorem EncodingFits.pop (rd : XIx) (ra : VIx) : EncodingFits.Statement (.pop rd ra) := fun _ => packR_lt (by decide) rd ra 0 0
theorem EncodingFits.brev (rd : VIx) : EncodingFits.Statement (.brev rd) := fun _ => packR_lt (by decide) rd 0 0 0
theorem EncodingFits.idxof (rd : XIx) (ra : VIx) (rb : XIx) : EncodingFits.Statement (.idxof rd ra rb) := fun _ => packR_lt (by decide) rd ra rb 0
theorem EncodingFits.slice (rd ra : VIx) (rb rc : XIx) : EncodingFits.Statement (.slice rd ra rb rc) := fun _ => packR_lt (by decide) rd ra rb rc
theorem EncodingFits.len (rd : XIx) (ra : VIx) : EncodingFits.Statement (.len rd ra) := fun _ => packR_lt (by decide) rd ra 0 0
theorem EncodingFits.sflr (rd : VIx) (ra : XIx) : EncodingFits.Statement (.sflr rd ra) := fun _ => packR_lt (by decide) rd ra 0 0
theorem EncodingFits.new (rd : VIx) : EncodingFits.Statement (.new rd) := fun _ => packR_lt (by decide) rd 0 0 0
theorem EncodingFits.fbin (rd : VIx) (ra rb : XIx) : EncodingFits.Statement (.fbin rd ra rb) := fun _ => packR_lt (by decide) rd ra rb 0
theorem EncodingFits.fnum (rd : VIx) (ra : XIx) : EncodingFits.Statement (.fnum rd ra) := fun _ => packR_lt (by decide) rd ra 0 0
theorem EncodingFits.fnumo (rd : VIx) (ra : XIx) : EncodingFits.Statement (.fnumo rd ra) := fun _ => packR_lt (by decide) rd ra 0 0
theorem EncodingFits.ldbits (rd : VIx) (ra rb : XIx) : EncodingFits.Statement (.ldbits rd ra rb) := fun _ => packR_lt (by decide) rd ra rb 0
theorem EncodingFits.fints (rd : VIx) (ra rb : XIx) : EncodingFits.Statement (.fints rd ra rb) := fun _ => packR_lt (by decide) rd ra rb 0
theorem EncodingFits.octet (rd ra : VIx) : EncodingFits.Statement (.octet rd ra) := fun _ => packR_lt (by decide) rd ra 0 0
theorem EncodingFits.foff (rd : VIx) (ra rb : XIx) : EncodingFits.Statement (.foff rd ra rb) := fun _ => packR_lt (by decide) rd ra rb 0
theorem EncodingFits.fdec (rd : VIx) (ra rb : XIx) : EncodingFits.Statement (.fdec rd ra rb) := fun _ => packR_lt (by decide) rd ra rb 0
theorem EncodingFits.fhex (rd : VIx) (ra rb : XIx) : EncodingFits.Statement (.fhex rd ra rb) := fun _ => packR_lt (by decide) rd ra rb 0
theorem EncodingFits.fhexn (rd : VIx) (ra : XIx) : EncodingFits.Statement (.fhexn rd ra) := fun _ => packR_lt (by decide) rd ra 0 0
theorem EncodingFits.fbytes (rd : VIx) (ra rb : XIx) : EncodingFits.Statement (.fbytes rd ra rb) := fun _ => packR_lt (by decide) rd ra rb 0
theorem EncodingFits.tooff (rd : XIx) (ra : VIx) (rb : XIx) : EncodingFits.Statement (.tooff rd ra rb) := fun _ => packR_lt (by decide) rd ra rb 0
theorem EncodingFits.tobytes (rd : XIx) (ra : VIx) (rb : XIx) : EncodingFits.Statement (.tobytes rd ra rb) := fun _ => packR_lt (by decide) rd ra rb 0
theorem EncodingFits.tonum (rd : XIx) (ra : VIx) : EncodingFits.Statement (.tonum rd ra) := fun _ => packR_lt (by decide) rd ra 0 0
theorem EncodingFits.tohex (rd : XIx) (ra : VIx) (rb : XIx) : EncodingFits.Statement (.tohex rd ra rb) := fun _ => packR_lt (by decide) rd ra rb 0
theorem EncodingFits.tostr (rd : XIx) (ra : VIx) (rb : XIx) : EncodingFits.Statement (.tostr rd ra rb) := fun _ => packR_lt (by decide) rd ra rb 0
theorem EncodingFits.tobits (rd : XIx) (ra : VIx) (rb : XIx) : EncodingFits.Statement (.tobits rd ra rb) := fun _ => packR_lt (by decide) rd ra rb 0
theorem EncodingFits.and (rd : VIx) (ops : List VIx) : EncodingFits.Statement (.and rd ops) := fun h => packL_lt (by decide) rd h
theorem EncodingFits.or (rd : VIx) (ops : List VIx) : EncodingFits.Statement (.or rd ops) := fun h => packL_lt (by decide) rd h
theorem EncodingFits.xor (rd : VIx) (ops : List VIx) : EncodingFits.Statement (.xor rd ops) := fun h => packL_lt (by decide) rd h
theorem EncodingFits.not (rd ra : VIx) : EncodingFits.Statement (.not rd ra) := fun _ => packR_lt (by decide) rd ra 0 0
theorem EncodingFits.popc32 (rd ra : XIx) : EncodingFits.Statement (.popc32 rd ra) := fun _ => packR_lt (by decide) rd ra 0 0
theorem EncodingFits.popcv (rd : XIx) (ra : VIx) : EncodingFits.Statement (.popcv rd ra) := fun _ => packR_lt (by decide) rd ra 0 0
theorem EncodingFits.popcb (rd ra rb : XIx) : EncodingFits.Statement (.popcb rd ra rb) := fun _ => packR_lt (by decide) rd ra rb 0

end Sys2Proof.Laws
end

