-- ==== Sys2Proof/Tests/Slice0.lean ====
section
/-! SUPPORT. Tests. Expected values are those of spec/95_test_vectors.md (named in each comment) or worked out by hand from the
rule named: words from 30_encoding.md, one command on a small state, faults, one step of the machine, the host port. -/

namespace Sys2Proof.Tests

open Sys2Proof.Machine

section tests

-- One after the other: elaborated all at once, these small proofs wait for each other in as many threads.
set_option Elab.async false

section helpers

/-- Bits from digits. -/
def b (l : List Nat) : List Bool := l.map (· == 1)

/-- A state with some V registers (number, bits, floor), X registers (number, value) and DMEM bytes (address, bytes) put into
it. -/
def put (s : State) (vs : List (Fin 8 × List Nat × Nat)) (xs : List (Fin 8 × Nat)) (ms : List (Nat × List Nat)) : State :=
  let s1 := vs.foldl (fun s v => s.setV v.1 { bits := b v.2.1, floor := v.2.2 }) s
  let s2 := xs.foldl (fun s x => s.setX x.1 x.2) s1
  ms.foldl (fun s m => s.memWrite m.1 (m.2.map (BitVec.ofNat 8))) s2

/-- The state after reset with registers and bytes put into it. -/
def st (vs : List (Fin 8 × List Nat × Nat)) (xs : List (Fin 8 × Nat)) (ms : List (Nat × List Nat)) : State :=
  put State.reset vs xs ms

/-- The next state of an outcome. -/
def nextOf : Result → Option State
  | .next t => some t
  | .fault _ => none
  | .refused _ => none

/-- The next state of the command of a word. -/
def run (w : Word) (s : State) : Option State :=
  match decode w with
  | .ok i => nextOf (exec i s)
  | .error _ => none

/-- PC and V register `i` afterwards: its bits and floor. -/
def vAfter (w : Word) (s : State) (i : Fin 8) : Option (Word × List Bool × Nat) :=
  (run w s).map fun t => (t.pc, (t.v.get i).bits, (t.v.get i).floor)

/-- PC and X register `i` afterwards. -/
def xAfter (w : Word) (s : State) (i : Fin 8) : Option (Word × Nat) := (run w s).map fun t => (t.pc, (t.x.get i).toNat)

/-- PC, X register `i` and the bytes from address `a` up afterwards. -/
def mAfter (w : Word) (s : State) (i : Fin 8) (a n : Nat) : Option (Word × Nat × List Nat) :=
  (run w s).map fun t => (t.pc, (t.x.get i).toNat, (t.memRead a n).map BitVec.toNat)

/-- The code of the fault taken, FINFO and PC; none where the command completes. -/
def faultAfter (w : Word) (s : State) : Option (Nat × Word × Word) :=
  match run w s with
  | some t => if t.fault then some (t.fcodeNat, t.finfo, t.pc) else none
  | none => none

end helpers

section wellFormed

/-! Operand counts that format L cannot hold (30_encoding.md R84, R88). -/

theorem test_and_of_no_operand_is_refused : (Instr.and 0 []).wellFormed = false := by decide
theorem test_or_of_no_operand_is_refused : (Instr.or 0 []).wellFormed = false := by decide
theorem test_xor_of_no_operand_is_refused : (Instr.xor 0 []).wellFormed = false := by decide
theorem test_and_of_seven_operands_is_refused : (Instr.and 0 [0, 1, 2, 3, 4, 5, 6]).wellFormed = false := by decide
theorem test_or_of_seven_operands_is_refused : (Instr.or 0 [0, 1, 2, 3, 4, 5, 6]).wellFormed = false := by decide
theorem test_xor_of_seven_operands_is_refused : (Instr.xor 0 [0, 1, 2, 3, 4, 5, 6]).wellFormed = false := by decide
theorem test_and_of_six_operands_is_accepted : (Instr.and 0 [0, 1, 2, 3, 4, 5]).wellFormed = true := by decide

end wellFormed

section decoding

/-! One word for each command, written out from the field tables of 30_encoding.md R81 to R84 and the opcodes of R87 (most
of them stand in 95_test_vectors.md). -/

theorem test_decode_halt : decode 0x00000001#32 = .ok (.halt) := by decide
theorem test_decode_nop : decode 0x00000002#32 = .ok (.nop) := by decide
theorem test_decode_li : decode 0x01000108#32 = .ok (.li 1 0x0100#16) := by decide
theorem test_decode_lis : decode 0xFFFF0109#32 = .ok (.lis 1 0xFFFF#16) := by decide
theorem test_decode_fill : decode 0x00000810#32 = .ok (.fill 0 1) := by decide
theorem test_decode_set : decode 0x00008811#32 = .ok (.set 0 1 2) := by decide
theorem test_decode_setv : decode 0x00000112#32 = .ok (.setv 1 0) := by decide
theorem test_decode_get : decode 0x00008113#32 = .ok (.get 1 0 2) := by decide
theorem test_decode_clr : decode 0x00000114#32 = .ok (.clr 1) := by decide
theorem test_decode_clone : decode 0x00000A15#32 = .ok (.clone 2 1) := by decide
theorem test_decode_eq : decode 0x00004316#32 = .ok (.eq 3 0 1) := by decide
theorem test_decode_push : decode 0x00000817#32 = .ok (.push 0 1) := by decide
theorem test_decode_pop : decode 0x00000218#32 = .ok (.pop 2 0) := by decide
theorem test_decode_brev : decode 0x00000019#32 = .ok (.brev 0) := by decide
theorem test_decode_idxof : decode 0x0000421A#32 = .ok (.idxof 2 0 1) := by decide
theorem test_decode_slice : decode 0x0006811B#32 = .ok (.slice 1 0 2 3) := by decide
theorem test_decode_len : decode 0x0000011C#32 = .ok (.len 1 0) := by decide
theorem test_decode_sflr : decode 0x0000091D#32 = .ok (.sflr 1 1) := by decide
theorem test_decode_new : decode 0x00000320#32 = .ok (.new 3) := by decide
theorem test_decode_fbin : decode 0x00008821#32 = .ok (.fbin 0 1 2) := by decide
theorem test_decode_fnum : decode 0x00000822#32 = .ok (.fnum 0 1) := by decide
theorem test_decode_fnumo : decode 0x00000823#32 = .ok (.fnumo 0 1) := by decide
theorem test_decode_ldbits : decode 0x00008A24#32 = .ok (.ldbits 2 1 2) := by decide
theorem test_decode_fints : decode 0x00008825#32 = .ok (.fints 0 1 2) := by decide
theorem test_decode_octet : decode 0x00000126#32 = .ok (.octet 1 0) := by decide
theorem test_decode_foff : decode 0x00008827#32 = .ok (.foff 0 1 2) := by decide
theorem test_decode_fdec : decode 0x00008828#32 = .ok (.fdec 0 1 2) := by decide
theorem test_decode_fhex : decode 0x00008829#32 = .ok (.fhex 0 1 2) := by decide
theorem test_decode_fhexn : decode 0x0000082A#32 = .ok (.fhexn 0 1) := by decide
theorem test_decode_fbytes : decode 0x0000882B#32 = .ok (.fbytes 0 1 2) := by decide
theorem test_decode_tooff : decode 0x0000C430#32 = .ok (.tooff 4 0 3) := by decide
theorem test_decode_tobytes : decode 0x0000C431#32 = .ok (.tobytes 4 0 3) := by decide
theorem test_decode_tonum : decode 0x00000132#32 = .ok (.tonum 1 0) := by decide
theorem test_decode_tohex : decode 0x0000C433#32 = .ok (.tohex 4 0 3) := by decide
theorem test_decode_tostr : decode 0x0000C434#32 = .ok (.tostr 4 0 3) := by decide
theorem test_decode_tobits : decode 0x0000C435#32 = .ok (.tobits 4 0 3) := by decide
theorem test_decode_and : decode 0x00221B40#32 = .ok (.and 3 [0, 1, 2]) := by decide
theorem test_decode_or : decode 0x00221B41#32 = .ok (.or 3 [0, 1, 2]) := by decide
theorem test_decode_xor : decode 0xD6223342#32 = .ok (.xor 3 [0, 1, 2, 4, 5, 6]) := by decide
theorem test_decode_not : decode 0x00000343#32 = .ok (.not 3 0) := by decide
theorem test_decode_popc32 : decode 0x00000A48#32 = .ok (.popc32 2 1) := by decide
theorem test_decode_popcv : decode 0x00000249#32 = .ok (.popcv 2 0) := by decide
theorem test_decode_popcb : decode 0x00008B4A#32 = .ok (.popcb 3 1 2) := by decide

/-! The illegal words of 95_test_vectors.md 2.7. -/

theorem test_illegal_zeroed_memory : decode 0x00000000#32 = .error (.unassignedOpcode 0) := by decide
theorem test_illegal_erased_memory : decode 0xFFFFFFFF#32 = .error (.unassignedOpcode 0xFF) := by decide
theorem test_illegal_halt_with_bit_8 : decode 0x00000101#32 = .error (.mustBeZero) := by decide
theorem test_illegal_opcode_03 : decode 0x00000903#32 = .error (.unassignedOpcode 3) := by decide
theorem test_illegal_fill_with_rb : decode 0x00008010#32 = .error (.mustBeZero) := by decide
theorem test_illegal_fill_with_bit_20 : decode 0x00100010#32 = .error (.mustBeZero) := by decide
theorem test_illegal_tonum_with_bit_20 : decode 0x00100032#32 = .error (.mustBeZero) := by decide
theorem test_illegal_and_of_0 : decode 0x00000040#32 = .error (.operandCount 0) := by decide
theorem test_illegal_and_of_7 : decode 0x00003840#32 = .error (.operandCount 7) := by decide
theorem test_illegal_and_with_unused_slot : decode 0x00040940#32 = .error (.unusedSlot) := by decide
theorem test_illegal_opcode_44 : decode 0x00000344#32 = .error (.unassignedOpcode 0x44) := by decide

/-- Four bytes, the lowest address first (30_encoding.md R80), and what is left over. -/
theorem test_decode_bytes_is_little_endian :
    decodeBytes [0x08#8, 0x01#8, 0x00#8, 0x01#8, 0xAA#8] = .ok (.li 1 0x0100#16, [0xAA#8]) := by decide

theorem test_decode_three_bytes : decodeBytes [0x01#8, 0x00#8, 0x00#8] = .error .truncated := by decide

theorem test_decode_table_word : decodeTableWord 32 0x00008113 = some (.get 1 0 2) := by decide

end decoding

section commands

/-! Rows of 95_test_vectors.md 2.1 to 2.6, at most two for a command. PC goes from 0 to 4. -/

theorem test_halt : (run 0x00000001 ({ State.reset with busy := true, pc := 8 } : State)).map (fun t => (t.pc, t.done, t.busy)) =
    some (12, true, false) := by decide +kernel
theorem test_nop : run 0x00000002 State.reset = some { State.reset with pc := 4 } := by decide +kernel
theorem test_li : xAfter 0x01000108 (st [] [(1, 77)] []) 1 = some (4, 256) := by decide +kernel
theorem test_lis : xAfter 0x00000109 (st [] [(1, 1)] []) 1 = some (4, 65536) := by decide +kernel
theorem test_lis_loses_the_top : xAfter 0xFFFF0109 (st [] [(1, 18446744073709551615)] []) 1 = some (4, 18446744073709551615) := by decide +kernel
theorem test_fill : vAfter 0x00000810 (st [] [(1, 24)] []) 0 = some (4, b [0, 0, 0, 0, 0, 0, 0, 0, 0, 0, 0, 0, 0, 0, 0, 0, 0, 0, 0, 0, 0, 0, 0, 0], 0) := by decide +kernel
theorem test_fill_capacity : faultAfter 0x00000810 (st [] [(1, 65537)] []) = some (7, 0x10001, 0) := by decide +kernel
theorem test_set_restores_the_floor : vAfter 0x00008811 (st [(0, [], 8)] [(1, 5), (2, 1)] []) 0 = some (4, b [0, 0, 0, 0, 0, 1, 0, 0], 8) := by decide +kernel
theorem test_set_saturates : faultAfter 0x00008811 (st [] [(1, 18446744073709551615)] []) = some (7, 0xFFFFFFFF, 0) := by decide +kernel
theorem test_get_grows : vAfter 0x00008113 (st [(0, [1, 0, 1], 0)] [(2, 6)] []) 0 = some (4, b [1, 0, 1, 0, 0, 0, 0], 0) := by decide +kernel
theorem test_get_index_is_destination : xAfter 0x00008213 (st [(0, [1, 0, 1], 0)] [(2, 0)] []) 2 = some (4, 1) := by decide +kernel
theorem test_clr : vAfter 0x00000114 (st [(1, [1, 1], 16)] [] []) 1 = some (4, b [0, 0, 0, 0, 0, 0, 0, 0, 0, 0, 0, 0, 0, 0, 0, 0], 16) := by decide +kernel
theorem test_clone : vAfter 0x00000915 (st [(1, [1, 0], 4)] [] []) 1 = some (4, b [1, 0], 0) := by decide +kernel
theorem test_setv : vAfter 0x00000112 (st [(0, [1, 1], 0), (1, [], 8)] [] []) 1 = some (4, b [1, 1, 0, 0, 0, 0, 0, 0], 8) := by decide +kernel
theorem test_setv_longer : vAfter 0x00000112 (st [(0, [1, 1, 1, 1, 1, 1, 1, 1, 1, 1], 0), (1, [0], 8)] [] []) 1 = some (4, b [1, 1, 1, 1, 1, 1, 1, 1, 1, 1], 8) := by decide +kernel
theorem test_eq_floors : xAfter 0x00004316 (st [(0, [1, 0], 4), (1, [1, 0], 0)] [] []) 3 = some (4, 1) := by decide +kernel
theorem test_eq_structural : xAfter 0x00004316 (st [(0, [1], 0), (1, [1, 0], 0)] [] []) 3 = some (4, 0) := by decide +kernel
theorem test_push : vAfter 0x00000817 (st [(0, [1, 0], 0)] [(1, 7)] []) 0 = some (4, b [1, 0, 1], 0) := by decide +kernel
theorem test_pop_below_floor : vAfter 0x00000218 (st [(0, [0, 0], 2)] [] []) 0 = some (4, b [0], 2) := by decide +kernel
theorem test_pop_empty : xAfter 0x00000218 (st [] [] []) 2 = some (4, 18446744073709551615) := by decide +kernel
theorem test_brev : vAfter 0x00000019 (st [(0, [1, 1, 0], 0)] [] []) 0 = some (4, b [0, 1, 1], 0) := by decide +kernel
theorem test_idxof : xAfter 0x0000421A (st [(0, [0, 0, 1, 0, 1], 0)] [(1, 1)] []) 2 = some (4, 2) := by decide +kernel
theorem test_idxof_strict : xAfter 0x0000421A (st [(0, [0, 1], 0)] [(1, 2)] []) 2 = some (4, 18446744073709551615) := by decide +kernel
theorem test_slice_clamps : vAfter 0x0006811B (st [(0, [1, 0, 1, 1, 0], 0)] [(2, 2), (3, 99)] []) 1 = some (4, b [1, 1, 0], 0) := by decide +kernel
theorem test_slice_in_place : vAfter 0x0006801B (st [(0, [1, 0, 1], 8)] [(2, 1), (3, 3)] []) 0 = some (4, b [0, 1], 0) := by decide +kernel
theorem test_len : xAfter 0x0000011C (st [(0, [0, 0, 0, 0, 0, 0, 0, 0, 0, 0, 0, 0, 0, 0, 0, 0, 0, 0, 0, 0, 0, 0, 0, 0], 0)] [] []) 1 = some (4, 24) := by decide +kernel
theorem test_sflr : vAfter 0x0000091D (st [(1, [1], 0)] [(1, 16)] []) 1 = some (4, b [1, 0, 0, 0, 0, 0, 0, 0, 0, 0, 0, 0, 0, 0, 0, 0], 16) := by decide +kernel
theorem test_sflr_keeps : vAfter 0x0000091D (st [(1, [1, 1, 1, 1], 0)] [(1, 2)] []) 1 = some (4, b [1, 1, 1, 1], 2) := by decide +kernel
theorem test_new : vAfter 0x00000320 (st [(3, [1, 1], 8)] [] []) 3 = some (4, b [], 0) := by decide +kernel
theorem test_fbin : vAfter 0x00008821 (st [] [(1, 256), (2, 4)] [(256, [48, 48, 49, 49])]) 0 = some (4, b [1, 1, 0, 0], 0) := by decide +kernel
theorem test_fbin_badfmt : faultAfter 0x00008821 (st [] [(1, 256), (2, 3)] [(256, [49, 97, 49])]) = some (5, 1, 0) := by decide +kernel
theorem test_fnum : vAfter 0x00000822 (st [] [(1, 144)] []) 0 = some (4, b [0, 0, 0, 0, 1, 0, 0, 1], 0) := by decide +kernel
theorem test_fnum_overflow : faultAfter 0x00000822 (st [] [(1, 9007199254740992)] []) = some (6, 0, 0) := by decide +kernel
theorem test_fnumo_zero : vAfter 0x00000823 (st [] [(1, 0)] []) 0 = some (4, b [0, 0, 0, 0, 0, 0, 0, 0], 0) := by decide +kernel
theorem test_fnumo : vAfter 0x00000823 (st [] [(1, 256)] []) 0 = some (4, b [0, 0, 0, 0, 0, 0, 0, 1, 0, 0, 0, 0, 0, 0, 0, 0], 0) := by decide +kernel
theorem test_ldbits : vAfter 0x00008A24 (st [] [(1, 64), (2, 4)] [(64, [1, 0, 1, 1])]) 2 = some (4, b [1, 0, 1, 1], 0) := by decide +kernel
theorem test_ldbits_badfmt : faultAfter 0x00008A24 (st [] [(1, 64), (2, 3)] [(64, [1, 2, 1])]) = some (5, 1, 0) := by decide +kernel
theorem test_fints : vAfter 0x00008825 (st [] [(1, 128), (2, 2)] [(128, [1, 0, 0, 0, 0, 1, 0, 0])]) 0 = some (4, b [0, 0, 0, 0, 0, 0, 0, 1, 0, 0, 0, 0, 0, 0, 0, 1, 0, 0, 0, 0, 0, 0, 0, 0], 0) := by decide +kernel
theorem test_fints_range : faultAfter 0x00008825 (st [] [(1, 65534), (2, 1)] []) = some (4, 0xFFFE, 0) := by decide +kernel
theorem test_octet : vAfter 0x00000126 (st [(0, [1, 0, 0, 0, 0, 0, 0, 0, 0], 0)] [] []) 1 = some (4, b [1, 0, 0, 0, 0, 0, 0, 0, 0, 0, 0, 0, 0, 0, 0, 0], 0) := by decide +kernel
theorem test_octet_in_place : vAfter 0x00000026 (st [(0, [1], 3)] [] []) 0 = some (4, b [1, 0, 0, 0, 0, 0, 0, 0], 0) := by decide +kernel
theorem test_foff : vAfter 0x00008827 (st [] [(1, 128), (2, 3)] [(128, [4, 0, 0, 0, 0, 0, 0, 0, 2, 0, 0, 0])]) 0 = some (4, b [1, 0, 1, 0, 1], 0) := by decide +kernel
theorem test_foff_capacity : faultAfter 0x00008827 (st [] [(1, 128), (2, 2)] [(128, [1, 0, 0, 0, 112, 17, 1, 0])]) = some (7, 0x11171, 0) := by decide +kernel
theorem test_fdec : vAfter 0x00008828 (st [] [(1, 256), (2, 3)] [(256, [49, 52, 52])]) 0 = some (4, b [0, 0, 0, 0, 1, 0, 0, 1], 0) := by decide +kernel
theorem test_fdec_overflow : faultAfter 0x00008828 (st [] [(1, 256), (2, 16)] [(256, [57, 48, 48, 55, 49, 57, 57, 50, 53, 52, 55, 52, 48, 57, 57, 50])]) = some (6, 0, 0) := by decide +kernel
theorem test_fhex_prefix : vAfter 0x00008829 (st [] [(1, 256), (2, 4)] [(256, [48, 120, 70, 48])]) 0 = some (4, b [0, 0, 0, 0, 1, 1, 1, 1], 0) := by decide +kernel
theorem test_fhex_capital_prefix : faultAfter 0x00008829 (st [] [(1, 256), (2, 4)] [(256, [48, 88, 102, 48])]) = some (5, 1, 0) := by decide +kernel
theorem test_fhexn : vAfter 0x0000082A (st [] [(1, 255)] []) 0 = some (4, b [1, 0, 1, 0, 1, 0, 1, 0, 0, 1], 0) := by decide +kernel
theorem test_fhexn_overflow : faultAfter 0x0000082A (st [] [(1, 99999999999999)] []) = some (6, 0, 0) := by decide +kernel
theorem test_fbytes : vAfter 0x0000882B (st [] [(1, 256), (2, 2)] [(256, [128, 144])]) 0 = some (4, b [1, 0, 0, 0, 0, 0, 0, 0, 1, 0, 0, 1, 0, 0, 0, 0], 0) := by decide +kernel
theorem test_fbytes_capacity : faultAfter 0x0000882B (st [] [(1, 256), (2, 8193)] []) = some (7, 0x10008, 0) := by decide +kernel
theorem test_tooff : mAfter 0x0000C430 (st [(0, [0, 0, 0, 0, 1, 1, 1, 1], 0)] [(3, 512)] []) 4 512 16 = some (4, 4, [4, 0, 0, 0, 5, 0, 0, 0, 6, 0, 0, 0, 7, 0, 0, 0]) := by decide +kernel
theorem test_tooff_range : faultAfter 0x0000C430 (st [(0, [1], 0)] [(3, 65534)] []) = some (4, 0xFFFE, 0) := by decide +kernel
theorem test_tobytes : mAfter 0x0000C431 (st [(0, [1, 0, 0, 0, 0, 0, 0, 0, 1], 0)] [(3, 512)] []) 4 512 2 = some (4, 2, [128, 1]) := by decide +kernel
theorem test_tobytes_partial : mAfter 0x0000C431 (st [(0, [1, 0, 1], 0)] [(3, 512)] []) 4 512 1 = some (4, 1, [5]) := by decide +kernel
theorem test_tonum : xAfter 0x00000132 (st [(0, [1, 0, 0, 1, 0, 0, 0, 1], 0)] [] []) 1 = some (4, 137) := by decide +kernel
theorem test_tonum_overflow : faultAfter 0x00000132 (st [(0, [0, 0, 0, 0, 0, 0, 0, 0, 0, 0, 0, 0, 0, 0, 0, 0, 0, 0, 0, 0, 0, 0, 0, 0, 0, 0, 0, 0, 0, 0, 0, 0, 0, 0, 0, 0, 0, 0, 0, 0, 0, 0, 0, 0, 0, 0, 0, 0, 0, 0, 0, 0, 0, 1], 0)] [] []) = some (6, 0, 0) := by decide +kernel
theorem test_tohex : mAfter 0x0000C433 (st [(0, [1, 0, 1, 1, 0, 1], 0)] [(3, 512)] []) 4 512 2 = some (4, 2, [50, 100]) := by decide +kernel
theorem test_tohex_overflow_first : faultAfter 0x0000C433 (st [(0, [0, 0, 0, 0, 0, 0, 0, 0, 0, 0, 0, 0, 0, 0, 0, 0, 0, 0, 0, 0, 0, 0, 0, 0, 0, 0, 0, 0, 0, 0, 0, 0, 0, 0, 0, 0, 0, 0, 0, 0, 0, 0, 0, 0, 0, 0, 0, 0, 0, 0, 0, 0, 0, 0, 0, 0, 0, 0, 0, 0, 1], 0)] [(3, 65536)] []) = some (6, 0, 0) := by decide +kernel
theorem test_tostr : mAfter 0x0000C434 (st [(0, [0, 0, 0, 0, 1, 1, 1, 1], 0)] [(3, 512)] []) 4 512 8 = some (4, 8, [49, 49, 49, 49, 48, 48, 48, 48]) := by decide +kernel
theorem test_tostr_reads_its_address_first : mAfter 0x0000C334 (st [(0, [1, 0], 0)] [(3, 512)] []) 3 512 2 = some (4, 2, [48, 49]) := by decide +kernel
theorem test_tobits : mAfter 0x0000C435 (st [(0, [1, 0, 1], 0)] [(3, 512)] []) 4 512 3 = some (4, 3, [1, 0, 1]) := by decide +kernel
theorem test_tobits_range : faultAfter 0x0000C435 (st [(0, [1, 0, 1], 0)] [(3, 65534)] []) = some (4, 0xFFFE, 0) := by decide +kernel
theorem test_and : vAfter 0x00221B40 (st [(0, [1, 0, 0, 1, 0, 0, 0, 1], 0), (1, [1, 0, 0, 0, 1, 0, 0, 1], 0), (2, [0, 1, 0, 0, 0, 1, 0, 1], 0)] [] []) 3 = some (4, b [0, 0, 0, 0, 0, 0, 0, 1], 0) := by decide +kernel
theorem test_and_in_place : vAfter 0x00221840 (st [(0, [1, 1], 0), (1, [1, 0], 0), (2, [1], 0)] [] []) 0 = some (4, b [1, 0], 0) := by decide +kernel
theorem test_or : vAfter 0x00221B41 (st [(0, [1, 0, 0, 1, 0, 0, 0, 1], 0), (1, [1, 0, 0, 0, 1, 0, 0, 1], 0), (2, [0, 1, 0, 0, 0, 1, 0, 1], 0)] [] []) 3 = some (4, b [1, 1, 0, 1, 1, 1, 0, 1], 0) := by decide +kernel
theorem test_or_of_the_longest : vAfter 0x00021341 (st [(0, [1, 1, 1, 1], 0), (1, [1, 1], 0)] [] []) 3 = some (4, b [1, 1, 1, 1], 0) := by decide +kernel
theorem test_xor : vAfter 0x00221B42 (st [(0, [1, 0, 0, 1, 0, 0, 0, 1], 0), (1, [1, 0, 0, 0, 1, 0, 0, 1], 0), (2, [0, 1, 0, 0, 0, 1, 0, 1], 0)] [] []) 3 = some (4, b [0, 1, 0, 1, 1, 1, 0, 1], 0) := by decide +kernel
theorem test_xor_counts_duplicates : vAfter 0x00101B42 (st [(0, [1], 0), (1, [0], 0)] [] []) 3 = some (4, b [0], 0) := by decide +kernel
theorem test_not : vAfter 0x00000343 (st [(0, [1, 0, 0, 1, 0, 0, 0, 1], 0)] [] []) 3 = some (4, b [0, 1, 1, 0, 1, 1, 1, 0], 0) := by decide +kernel
theorem test_not_in_place : vAfter 0x00000043 (st [(0, [1, 0], 4)] [] []) 0 = some (4, b [0, 1], 0) := by decide +kernel
theorem test_popc32 : xAfter 0x00000A48 (st [] [(1, 144)] []) 2 = some (4, 2) := by decide +kernel
theorem test_popc32_range : faultAfter 0x00000A48 (st [] [(1, 4294967296)] []) = some (8, 0, 0) := by decide +kernel
theorem test_popcv : xAfter 0x00000249 (st [(0, [0, 1, 1, 0, 1, 0], 0)] [] []) 2 = some (4, 3) := by decide +kernel
theorem test_popcb : xAfter 0x00008B4A (st [] [(1, 257), (2, 5)] [(257, [1, 3, 7, 15, 31])]) 3 = some (4, 15) := by decide +kernel
theorem test_popcb_last_byte : xAfter 0x00008B4A (st [] [(1, 65535), (2, 1)] [(65535, [255])]) 3 = some (4, 8) := by decide +kernel

end commands

section machine

/-! The command cycle, the fault entry, reset and the host port. -/

/-- A run started at a word runs it (45_sequencer.md R280): LI X1, 0x100. -/
theorem test_withFetchWord_runs :
    (nextOf (step (State.reset.withFetchWord 32 0x01000108))).map (fun t => (t.pc, (t.x.get 1).toNat, t.busy)) =
      some (4, 256, true) := by decide +kernel

/-- 95_test_vectors.md 2.7: zeroed memory is ILLEGAL, and PC, FPC and FINST are as R302 says. -/
theorem test_illegal_is_taken :
    (nextOf (step (State.reset.withFetchWord 32 0x00100010))).map
      (fun t => (t.pc, t.fpc, t.finst, t.fcodeNat, t.finfo, t.busy)) =
      some (0, 0, 0x00100010, 1, 0, false) := by decide +kernel

/-- 95_test_vectors.md 2.7: PC = 2 at GO. -/
theorem test_misaligned_fetch :
    (nextOf (step ({ State.reset with pc := 2, busy := true } : State))).map
      (fun t => (t.pc, t.fpc, t.finst, t.fcodeNat, t.finfo)) = some (2, 2, 0, 2, 2) := by decide +kernel

/-- 95_test_vectors.md 2.7: the fetch at 0x10000. -/
theorem test_fetch_range :
    (nextOf (step ({ State.reset with pc := 0x10000, busy := true } : State))).map
      (fun t => (t.pc, t.fpc, t.finst, t.fcodeNat, t.finfo)) = some (0x10000, 0x10000, 0, 3, 0x10000) := by decide +kernel

/-- 95_test_vectors.md P3: the word of the command that faults stands in FINST. -/
theorem test_finst_is_the_command :
    (nextOf (step (((State.reset.setX 5 65537)).withFetchWord 32 0x00002910))).map
      (fun t => (t.finst, t.finfo, t.fcodeNat, t.done, t.fault)) =
      some (0x00002910, 0x00010001, 7, false, true) := by decide +kernel

/-- 10_state.md R29 to R32 at the defaults. -/
theorem test_constants :
    [0x00, 0x04, 0x08, 0x0C, 0x10, 0x14].map State.reset.readReg =
      [0x42564531, 0x01063588, 0x10000, 0x10000, 0, 0] := by decide +kernel

/-- 10_state.md R33: CTRL = IRQEN and GO on an idle engine. -/
theorem test_go :
    (fun t : State => (t.busy, t.irqEn, t.done)) (State.reset.arrive (.write 0x10 .w32 3)) = (true, true, false) := by
  decide +kernel

/-- 10_state.md R34: STATUS after HALT with IRQEN reads DONE and IRQ, and a 1 clears DONE. -/
theorem test_status :
    ((({ State.reset with done := true, irqEn := true } : State).readReg 0x14),
      (({ State.reset with done := true, irqEn := true } : State).arrive (.write 0x14 .w32 2)).readReg 0x14) = (0xA, 0) := by
  decide +kernel

/-- 20_memory.md R68: a DMEM write during a run is held, and completes after the run. -/
theorem test_stall :
    (fun s : State =>
      (s.mem, s.held.length, (nextOf (step { s with busy := false })).map (fun t => (t.mem, t.held.length))))
      (({ State.reset with busy := true } : State).arrive (.write 0x10002 .w8 0xAB)) =
      ([], 1, some ([(2, 0xAB)], 0)) := by decide +kernel

/-- 10_state.md R37: X1HI is written, X1LO stays; a byte of DMEM is read. -/
theorem test_host_window :
    ((((st [] [(1, 5)] []).arrive (.write 0x4C .w32 7)).x.get 1).toNat, (st [] [] [(3, [0x9C])]).hostRead 0x10003 .w8) =
      (7 * 2 ^ 32 + 5, 0x9C) := by decide +kernel

/-- 10_state.md R38: 64 bits at ID read 0, and a 16-bit and a 64-bit write to PC are ignored. -/
theorem test_other_widths_of_registers :
    (State.reset.hostRead 0x00 (.wider 3), (State.reset.arrive (.write 0x18 .w16 8)).pc,
      (State.reset.arrive (.write 0x18 (.wider 3) 8)).pc, (State.reset.arrive (.write 0x18 .w32 8)).pc) = (0, 0, 0, 8) := by
  decide +kernel

/-- 20_memory.md R61, R63: a 16-bit read at an odd address, low byte first; the byte after it is not read. -/
theorem test_sixteen_bits :
    ((st [] [] [(3, [0x9C, 0x01, 0x7F])]).arrive (.read 0x10003 .w16)).replies =
      [{ access := .read 0x10003 .w16, data := 0x019C }] := by decide +kernel

/-- 20_memory.md R61, log entry 17: a 24-bit write reaches three bytes and leaves the fourth. -/
theorem test_other_width_of_dmem :
    (fun t : State => (t.mem.map Prod.fst, Memory.listed t.mem 6))
      ((st [] [] [(3, [1, 2, 3, 4])]).arrive (.write 0x10003 .w24 0)) = ([3, 4, 5, 6], some 4) := by decide +kernel

/-- Log entry 7: a 32-bit write at 0xFFFE stores its two upper bytes at 0 and 1. -/
theorem test_spanning_write : (State.reset.arrive (.write 0xFFFE .w32 0x44332211)).mem = [(0, 0x33), (1, 0x44)] := by
  decide +kernel

/-- 70_reset_and_hazards.md R342: `rst` ends a run. -/
theorem test_rst_ends_a_run :
    (nextOf (step ({ st [] [(1, 5)] [] with
      pc := 8, busy := true, inbox := [{ delay := 0, event := .rstAssert }] } : State))).map
      (fun t => (t.busy, t.pc, (t.x.get 1).toNat, t.rst, t.inbox.length)) = some (false, 0, 0, true, 0) := by decide +kernel

/-- 70_reset_and_hazards.md R341: SRST with GO resets and does not start a run; DMEM stays. -/
theorem test_soft_reset :
    (fun t : State => (t.busy, (t.x.get 1).toNat, t.pc, t.mem)) ((st [] [(1, 5)] [(0, [1])]).arrive (.write 0x10 .w32 5)) =
      (false, 0, 0, [(0, 1)]) := by decide +kernel

/-- 70_reset_and_hazards.md R342: a read while `rst` is asserted answers 0. -/
theorem test_asserted_reset_reads_zero :
    ((State.reset.event .rstAssert).arrive (.read 0x00 .w32)).replies = [{ access := .read 0x00 .w32, data := 0 }] := by
  decide +kernel

/-- The canonical form of memory: a store in the middle of listed bytes. -/
theorem test_memory_is_canonical :
    Memory.store [(1, 0x11), (2, 0x22), (9, 0x99)] 2 [0xAA, 0xBB] = [(1, 0x11), (2, 0xAA), (3, 0xBB), (9, 0x99)] := by
  decide +kernel

/-- 30_encoding.md R91: what li32 expands to. -/
theorem test_li32 : (Pseudo.li32 1 0x00010001#32).expand = [.li 1 1#16, .lis 1 1#16] := by decide

end machine

end tests

end Sys2Proof.Tests
end

