-- ==== Sys2Proof/Tests/Witnesses.lean ====
section
/-! SUPPORT. For every statement with hypotheses, and for each clause of one, a concrete state and operands that meet all the
hypotheses together, at a boundary of their range where they have one. -/

namespace Sys2Proof.Tests

open Sys2Proof.Machine Sys2Proof.Claims

section witnesses

-- One after the other: elaborated all at once, these small proofs wait for each other in as many threads.
set_option Elab.async false

section states

/-- The machine with the least MAXLEN, 64 bits, so that capacities are reached by short vectors. -/
def small : State := State.resetWith { maxLen := 64, numBits := 53, dmemBytes := 65536 }

/-- X1 and X2, an address and a count. -/
def at_ (a n : Nat) : List (Fin 8 × Nat) := [(1, a), (2, n)]

/-- 65 bytes 0x30 at address 256. -/
def manyZeros : List (Nat × List Nat) := [(256, List.replicate 65 0x30)]

/-- 65 bytes 0 at address 256. -/
def manyNulls : List (Nat × List Nat) := [(256, List.replicate 65 0)]

/-- A vector of `n` ones in V0. -/
def ones (n : Nat) : List (Fin 8 × List Nat × Nat) := [(0, List.replicate n 1, 0)]

/-- A run in progress: PC at 8, where a NOP stands, and a host access due in five steps. -/
def running : State :=
  { put State.reset [] [] [(8, [2, 0, 0, 0])] with
    pc := 8, busy := true, inbox := [{ delay := 5, event := .access (.read 0x14 .w32) }] }

end states

section bitStore

theorem witness_fill_fits : (put small [] [(1, 64)] []).xNat 1 ≤ (put small [] [(1, 64)] []).cfg.maxLen := by decide +kernel
theorem witness_fill_too_long : (put small [] [(1, 65)] []).cfg.maxLen < (put small [] [(1, 65)] []).xNat 1 := by
  decide +kernel
/-- For SET, GET: the last index. -/
theorem witness_index_fits : (put small [] [(1, 63)] []).xNat 1 < (put small [] [(1, 63)] []).cfg.maxLen := by decide +kernel
theorem witness_index_too_large : (put small [] [(1, 64)] []).cfg.maxLen ≤ (put small [] [(1, 64)] []).xNat 1 := by
  decide +kernel
theorem witness_eq_equal :
    let s := put small [(0, [1, 0], 4), (1, [1, 0], 0)] [] []
    (s.v.get 0).bits.length = (s.v.get 1).bits.length ∧
      ∀ i < (s.v.get 0).bits.length, (s.v.get 0).bits[i]? = (s.v.get 1).bits[i]? := by decide +kernel
theorem witness_eq_lengths :
    let s := put small [(0, [1], 0), (1, [1, 0], 0)] [] []
    (s.v.get 0).bits.length ≠ (s.v.get 1).bits.length := by decide +kernel
theorem witness_eq_index :
    let s := put small [(0, [1, 0], 0), (1, [1, 1], 0)] [] []
    1 < (s.v.get 0).bits.length ∧ (s.v.get 0).bits[1]? ≠ (s.v.get 1).bits[1]? := by decide +kernel
theorem witness_push_fits : ((put small (ones 63) [] []).v.get 0).bits.length < (put small (ones 63) [] []).cfg.maxLen := by
  decide +kernel
theorem witness_push_full : (put small (ones 64) [] []).cfg.maxLen ≤ ((put small (ones 64) [] []).v.get 0).bits.length := by
  decide +kernel
theorem witness_pop_empty : (small.v.get 0).bits = [] := by decide +kernel
theorem witness_pop_some : ((put small [(0, [1, 0], 0)] [] []).v.get 0).bits = [true] ++ [false] := by decide +kernel
theorem witness_idxof_found :
    let s := put small [(0, [0, 0, 1, 0, 1], 0)] [(1, 1)] []
    s.xNat 1 = (if true then 1 else 0) ∧ (s.v.get 0).bits[2]? = some true ∧
      ∀ j < 2, (s.v.get 0).bits[j]? ≠ some true := by decide +kernel
theorem witness_idxof_absent :
    let s := put small [(0, [1, 1], 0)] [(1, 0)] []
    s.xNat 1 = (if false then 1 else 0) ∧ false ∉ (s.v.get 0).bits := by decide +kernel
theorem witness_idxof_neither : 1 < (put small [] [(1, 2)] []).xNat 1 := by decide +kernel

end bitStore

section imports

/-- For FBIN, LDBITS, FDEC, FHEX, FBYTES, POPCB: a range that ends one byte past DMEM. -/
theorem witness_range_out : ¬InRange (put small [] (at_ 0xFFFF 2) []).cfg ((put small [] (at_ 0xFFFF 2) []).xNat 1)
    ((put small [] (at_ 0xFFFF 2) []).xNat 2) := by decide +kernel
/-- For FINTS, FOFF: the same for elements of four bytes. -/
theorem witness_elements_out : ¬InRange (put small [] (at_ 0xFFFD 1) []).cfg ((put small [] (at_ 0xFFFD 1) []).xNat 1)
    (4 * (put small [] (at_ 0xFFFD 1) []).xNat 2) := by decide +kernel

theorem witness_fbin_bad :
    let s := put small [] (at_ 0xFFFD 3) [(0xFFFD, [0x31, 0x61, 0x31])]
    let isDigit := fun j => s.byteAt (s.xNat 1 + j) = 0x30#8 ∨ s.byteAt (s.xNat 1 + j) = 0x31#8
    InRange s.cfg (s.xNat 1) (s.xNat 2) ∧ 1 < s.xNat 2 ∧ ¬isDigit 1 ∧ ∀ k < 1, isDigit k := by decide +kernel
theorem witness_fbin_capacity :
    let s := put small [] (at_ 256 65) manyZeros
    let isDigit := fun j => s.byteAt (s.xNat 1 + j) = 0x30#8 ∨ s.byteAt (s.xNat 1 + j) = 0x31#8
    InRange s.cfg (s.xNat 1) (s.xNat 2) ∧ (∀ k < s.xNat 2, isDigit k) ∧ s.cfg.maxLen < s.xNat 2 := by decide +kernel
theorem witness_fbin_fits :
    let s := put small [] (at_ 256 64) manyZeros
    let isDigit := fun j => s.byteAt (s.xNat 1 + j) = 0x30#8 ∨ s.byteAt (s.xNat 1 + j) = 0x31#8
    InRange s.cfg (s.xNat 1) (s.xNat 2) ∧ (∀ k < s.xNat 2, isDigit k) ∧ s.xNat 2 ≤ s.cfg.maxLen := by decide +kernel

/-- For FNUM, FNUMO, FHEXN: the largest number and the one after it. -/
theorem witness_number_fits : (put small [] [(1, 2 ^ 53 - 1)] []).xNat 1 < 2 ^ (put small [] [(1, 2 ^ 53 - 1)] []).cfg.numBits := by
  decide +kernel
theorem witness_number_out : 2 ^ (put small [] [(1, 2 ^ 53)] []).cfg.numBits ≤ (put small [] [(1, 2 ^ 53)] []).xNat 1 := by
  decide +kernel

theorem witness_ldbits_bad :
    let s := put small [] (at_ 0xFFFD 3) [(0xFFFD, [1, 2, 1])]
    let isBit := fun j => s.byteAt (s.xNat 1 + j) = 0#8 ∨ s.byteAt (s.xNat 1 + j) = 1#8
    InRange s.cfg (s.xNat 1) (s.xNat 2) ∧ 1 < s.xNat 2 ∧ ¬isBit 1 ∧ ∀ k < 1, isBit k := by decide +kernel
theorem witness_ldbits_capacity :
    let s := put small [] (at_ 256 65) manyNulls
    let isBit := fun j => s.byteAt (s.xNat 1 + j) = 0#8 ∨ s.byteAt (s.xNat 1 + j) = 1#8
    InRange s.cfg (s.xNat 1) (s.xNat 2) ∧ (∀ k < s.xNat 2, isBit k) ∧ s.cfg.maxLen < s.xNat 2 := by decide +kernel
theorem witness_ldbits_fits :
    let s := put small [] (at_ 256 64) manyNulls
    let isBit := fun j => s.byteAt (s.xNat 1 + j) = 0#8 ∨ s.byteAt (s.xNat 1 + j) = 1#8
    InRange s.cfg (s.xNat 1) (s.xNat 2) ∧ (∀ k < s.xNat 2, isBit k) ∧ s.xNat 2 ≤ s.cfg.maxLen := by decide +kernel

/-- Nine elements 0 take 72 bits, eight take 64. -/
theorem witness_fints_capacity :
    let s := put small [] (at_ 256 9) manyNulls
    InRange s.cfg (s.xNat 1) (4 * s.xNat 2) ∧ s.cfg.maxLen <
      ((List.range (s.xNat 2)).flatMap fun k => octetBits (u32At s (s.xNat 1 + 4 * k))).length := by decide +kernel
theorem witness_fints_fits :
    let s := put small [] (at_ 256 8) manyNulls
    InRange s.cfg (s.xNat 1) (4 * s.xNat 2) ∧
      ((List.range (s.xNat 2)).flatMap fun k => octetBits (u32At s (s.xNat 1 + 4 * k))).length ≤ s.cfg.maxLen := by
  decide +kernel

theorem witness_foff_capacity :
    let s := put small [] (at_ 0xFFF8 2) [(0xFFF8, [63, 0, 0, 0, 64, 0, 0, 0])]
    let offs := (List.range (s.xNat 2)).map fun k => u32At s (s.xNat 1 + 4 * k)
    InRange s.cfg (s.xNat 1) (4 * s.xNat 2) ∧ (∃ h : 1 < offs.length, s.cfg.maxLen ≤ offs[1]) ∧
      ∀ o ∈ offs.take 1, o < s.cfg.maxLen := by decide +kernel
theorem witness_foff_fits :
    let s := put small [] (at_ 0xFFF8 2) [(0xFFF8, [63, 0, 0, 0, 0, 0, 0, 0])]
    InRange s.cfg (s.xNat 1) (4 * s.xNat 2) ∧
      ∀ o ∈ (List.range (s.xNat 2)).map (fun k => u32At s (s.xNat 1 + 4 * k)), o < s.cfg.maxLen := by decide +kernel

theorem witness_fdec_empty : (put small [] (at_ 0x10000 0) []).xNat 2 = 0 := by decide +kernel
theorem witness_fdec_bad :
    let s := put small [] (at_ 0xFFFD 3) [(0xFFFD, [0x31, 0x20, 0x34])]
    let isDigit := fun j => 0x30 ≤ (s.byteAt (s.xNat 1 + j)).toNat ∧ (s.byteAt (s.xNat 1 + j)).toNat ≤ 0x39
    InRange s.cfg (s.xNat 1) (s.xNat 2) ∧ 1 < s.xNat 2 ∧ ¬isDigit 1 ∧ ∀ k < 1, isDigit k := by decide +kernel
/-- The text of 2^53. -/
theorem witness_fdec_overflow :
    let s := put small [] (at_ 256 16)
      [(256, [0x39, 0x30, 0x30, 0x37, 0x31, 0x39, 0x39, 0x32, 0x35, 0x34, 0x37, 0x34, 0x30, 0x39, 0x39, 0x32])]
    let isDigit := fun j => 0x30 ≤ (s.byteAt (s.xNat 1 + j)).toNat ∧ (s.byteAt (s.xNat 1 + j)).toNat ≤ 0x39
    InRange s.cfg (s.xNat 1) (s.xNat 2) ∧ 0 < s.xNat 2 ∧ (∀ k < s.xNat 2, isDigit k) ∧
      2 ^ s.cfg.numBits ≤ Nat.ofDigits 10
        ((List.range (s.xNat 2)).map fun i => (s.byteAt (s.xNat 1 + (s.xNat 2 - 1 - i))).toNat - 0x30) := by decide +kernel
/-- The text of 2^53 - 1. -/
theorem witness_fdec_fits :
    let s := put small [] (at_ 256 16)
      [(256, [0x39, 0x30, 0x30, 0x37, 0x31, 0x39, 0x39, 0x32, 0x35, 0x34, 0x37, 0x34, 0x30, 0x39, 0x39, 0x31])]
    let isDigit := fun j => 0x30 ≤ (s.byteAt (s.xNat 1 + j)).toNat ∧ (s.byteAt (s.xNat 1 + j)).toNat ≤ 0x39
    InRange s.cfg (s.xNat 1) (s.xNat 2) ∧ 0 < s.xNat 2 ∧ (∀ k < s.xNat 2, isDigit k) ∧
      Nat.ofDigits 10 ((List.range (s.xNat 2)).map fun i => (s.byteAt (s.xNat 1 + (s.xNat 2 - 1 - i))).toNat - 0x30) <
        2 ^ s.cfg.numBits := by decide +kernel

/-- The length of the prefix, as the statement on FHEX has it. -/
def prefixAt (s : State) : Nat :=
  if 2 ≤ s.xNat 2 ∧ s.byteAt (s.xNat 1) = 0x30#8 ∧ s.byteAt (s.xNat 1 + 1) = 0x78#8 then 2 else 0

/-- "0x" with no digit. -/
theorem witness_fhex_no_digit :
    let s := put small [] (at_ 0xFFFE 2) [(0xFFFE, [0x30, 0x78])]
    InRange s.cfg (s.xNat 1) (s.xNat 2) ∧ prefixAt s = s.xNat 2 := by decide +kernel
/-- "fg". -/
theorem witness_fhex_bad :
    let s := put small [] (at_ 0xFFFE 2) [(0xFFFE, [0x66, 0x67])]
    InRange s.cfg (s.xNat 1) (s.xNat 2) ∧ prefixAt s ≤ 1 ∧ 1 < s.xNat 2 ∧ (∀ d, ¬IsHexDigit (s.byteAt (s.xNat 1 + 1)) d) ∧
      ∀ k, prefixAt s ≤ k → k < 1 → ∃ d, IsHexDigit (s.byteAt (s.xNat 1 + k)) d := by
  intro s
  have h0 : (s.byteAt (s.xNat 1 + 0)).toNat = 0x66 := by decide +kernel
  have h1 : (s.byteAt (s.xNat 1 + 1)).toNat = 0x67 := by decide +kernel
  refine ⟨by decide +kernel, by decide +kernel, by decide +kernel, fun d => ?_, fun k _ hk => ⟨15, ?_⟩⟩
  · simp only [IsHexDigit, h1]
    omega
  · obtain rfl : k = 0 := by omega
    rw [IsHexDigit, h0]
    exact .inr ⟨by decide, by decide, .inl rfl⟩
/-- "0x20000000000000", which is 2^53, and "1fffffffffffff". -/
theorem witness_fhex_overflow :
    let s := put small [] (at_ 256 16)
      [(256, [0x30, 0x78, 0x32, 0x30, 0x30, 0x30, 0x30, 0x30, 0x30, 0x30, 0x30, 0x30, 0x30, 0x30, 0x30, 0x30])]
    let ds := 2 :: List.replicate 13 0
    InRange s.cfg (s.xNat 1) (s.xNat 2) ∧ prefixAt s < s.xNat 2 ∧ ds.length = s.xNat 2 - prefixAt s ∧
      (∀ j < s.xNat 2 - prefixAt s, IsHexDigit (s.byteAt (s.xNat 1 + prefixAt s + j)) (ds.getD j 0)) ∧
      2 ^ s.cfg.numBits ≤ Nat.ofDigits 16 ds.reverse := by
  unfold IsHexDigit
  decide +kernel
theorem witness_fhex_fits :
    let s := put small [] (at_ 256 14)
      [(256, [0x31, 0x66, 0x46, 0x66, 0x66, 0x66, 0x66, 0x66, 0x66, 0x66, 0x66, 0x66, 0x66, 0x66])]
    let ds := 1 :: List.replicate 13 15
    InRange s.cfg (s.xNat 1) (s.xNat 2) ∧ prefixAt s < s.xNat 2 ∧ ds.length = s.xNat 2 - prefixAt s ∧
      (∀ j < s.xNat 2 - prefixAt s, IsHexDigit (s.byteAt (s.xNat 1 + prefixAt s + j)) (ds.getD j 0)) ∧
      Nat.ofDigits 16 ds.reverse < 2 ^ s.cfg.numBits := by
  unfold IsHexDigit
  decide +kernel

/-- The decimal digits 2 and thirteen 0 read as hexadecimal are 2^53. -/
theorem witness_fhexn_overflow :
    (put small [] [(1, 20000000000000)] []).xNat 1 < 2 ^ small.cfg.numBits ∧
      2 ^ small.cfg.numBits ≤ Nat.ofDigits 16 (Nat.digits 10 ((put small [] [(1, 20000000000000)] []).xNat 1)) := by
  have h : (put small [] [(1, 20000000000000)] []).xNat 1 = 20000000000000 := by decide +kernel
  rw [h]
  norm_num [small, State.resetWith, Nat.ofDigits]
theorem witness_fhexn_fits :
    (put small [] [(1, 19999999999999)] []).xNat 1 < 2 ^ small.cfg.numBits ∧
      Nat.ofDigits 16 (Nat.digits 10 ((put small [] [(1, 19999999999999)] []).xNat 1)) < 2 ^ small.cfg.numBits := by
  have h : (put small [] [(1, 19999999999999)] []).xNat 1 = 19999999999999 := by decide +kernel
  rw [h]
  norm_num [small, State.resetWith, Nat.ofDigits]

theorem witness_fbytes_capacity :
    let s := put small [] (at_ 0xFFF7 9) []
    InRange s.cfg (s.xNat 1) (s.xNat 2) ∧ s.cfg.maxLen < 8 * s.xNat 2 := by decide +kernel
theorem witness_fbytes_fits :
    let s := put small [] (at_ 0xFFF8 8) []
    InRange s.cfg (s.xNat 1) (s.xNat 2) ∧ 8 * s.xNat 2 ≤ s.cfg.maxLen := by decide +kernel

end imports

section exports

theorem witness_tooff_out :
    let s := put small [(0, [0, 1], 0)] [(3, 0xFFFD)] []
    ¬InRange s.cfg (s.xNat 3)
      (4 * ((List.range (s.v.get 0).bits.length).filter fun i => (s.v.get 0).bits[i]? == some true).length) := by
  decide +kernel
theorem witness_tooff_in :
    let s := put small [(0, [0, 1], 0)] [(3, 0xFFFC)] []
    InRange s.cfg (s.xNat 3)
      (4 * ((List.range (s.v.get 0).bits.length).filter fun i => (s.v.get 0).bits[i]? == some true).length) := by
  decide +kernel
theorem witness_tobytes_out :
    let s := put small (ones 9) [(3, 0xFFFF)] []
    ¬InRange s.cfg (s.xNat 3) (((s.v.get 0).bits.length + 7) / 8) := by decide +kernel
theorem witness_tobytes_in :
    let s := put small (ones 9) [(3, 0xFFFE)] []
    InRange s.cfg (s.xNat 3) (((s.v.get 0).bits.length + 7) / 8) := by decide +kernel
/-- For TONUM and TOHEX: the largest number, 53 ones. -/
theorem witness_value_fits :
    valueOf ((put small (ones 53) [] []).v.get 0).bits < 2 ^ (put small (ones 53) [] []).cfg.numBits := by decide +kernel
theorem witness_value_out :
    2 ^ (put small [(0, List.replicate 53 0 ++ [1], 0)] [] []).cfg.numBits ≤
      valueOf ((put small [(0, List.replicate 53 0 ++ [1], 0)] [] []).v.get 0).bits := by decide +kernel
theorem witness_tohex_out :
    let s := put small [] [(3, 0x10000)] []
    valueOf (s.v.get 0).bits = 0 ∧ valueOf (s.v.get 0).bits < 2 ^ s.cfg.numBits ∧ ¬InRange s.cfg (s.xNat 3) 1 := by
  decide +kernel
theorem witness_tohex_in :
    let s := put small [] [(3, 0xFFFF)] []
    valueOf (s.v.get 0).bits = 0 ∧ valueOf (s.v.get 0).bits < 2 ^ s.cfg.numBits ∧ InRange s.cfg (s.xNat 3) 1 := by
  decide +kernel
/-- For TOSTR and TOBITS. -/
theorem witness_string_out :
    let s := put small (ones 3) [(3, 0xFFFE)] []
    ¬InRange s.cfg (s.xNat 3) (s.v.get 0).bits.length := by decide +kernel
theorem witness_string_in :
    let s := put small (ones 3) [(3, 0xFFFD)] []
    InRange s.cfg (s.xNat 3) (s.v.get 0).bits.length := by decide +kernel

end exports

section votesAndCounts

theorem witness_one_operand : Instr.legalOps [0] = true := by decide
theorem witness_six_operands : Instr.legalOps [0, 1, 2, 3, 4, 5] = true := by decide
theorem witness_decisions :
    andDecision ∈ [andDecision, orDecision, xorDecision] ∧ andDecision ∈ [andDecision, orDecision] := by simp
theorem witness_chain_operands : [[true], []] ≠ ([] : List (List Bool)) := by decide
theorem witness_permuted_operands : [[true], [false]].Perm [[false], [true]] := by decide
theorem witness_popc32_fits : (put small [] [(1, 2 ^ 32 - 1)] []).xNat 1 < 2 ^ 32 := by decide +kernel
theorem witness_popc32_out : 2 ^ 32 ≤ (put small [] [(1, 2 ^ 32)] []).xNat 1 := by decide +kernel
theorem witness_popcb_in :
    let s := put small [] (at_ 0xFFFF 1) []
    InRange s.cfg (s.xNat 1) (s.xNat 2) := by decide +kernel
theorem witness_counts_agree_buffer :
    let s := put small [] (at_ 0xFFF8 8) []
    s.cfg.Legal ∧ InRange s.cfg (s.xNat 1) (s.xNat 2) ∧ 8 * s.xNat 2 ≤ s.cfg.maxLen := by decide +kernel
theorem witness_counts_agree_word :
    let s := put small [] [(1, 0x84838281), (2, 0xFFFC), (3, 4)] [(0xFFFC, [0x81, 0x82, 0x83, 0x84])]
    s.cfg.Legal ∧ s.xNat 1 < 2 ^ 32 ∧ s.xNat 3 = 4 ∧ InRange s.cfg (s.xNat 2) 4 ∧ u32At s (s.xNat 2) = s.xNat 1 := by
  decide +kernel

end votesAndCounts

section roundTrips

/-- X0 the number, X1 the address, X2 the count: 53 bits up to the end of DMEM. -/
theorem witness_number_returns :
    let s := put small [] [(0, 2 ^ 53 - 1), (1, 65536 - 53)] []
    s.cfg.Legal ∧ (2 : XIx) ≠ 1 ∧ s.xNat 0 < 2 ^ s.cfg.numBits ∧ s.xNat 1 + s.cfg.numBits ≤ s.cfg.dmemBytes := by
  decide +kernel
theorem witness_hex_returns :
    let s := put small (ones 53) [(1, 0xFFF0)] []
    s.cfg.Legal ∧ (2 : XIx) ≠ 1 ∧ valueOf (s.v.get 0).bits < 2 ^ s.cfg.numBits ∧ s.xNat 1 + 16 ≤ s.cfg.dmemBytes := by
  decide +kernel
theorem witness_strings_return :
    let s := put small (ones 64) [(1, 65536 - 64)] []
    s.cfg.Legal ∧ (2 : XIx) ≠ 1 ∧ (s.v.get 0).bits.length ≤ s.cfg.maxLen ∧
      s.xNat 1 + (s.v.get 0).bits.length ≤ s.cfg.dmemBytes := by decide +kernel
/-- X3 the address of the copy; the two ranges overlap. -/
theorem witness_buffer_returns :
    let s := put small [] [(1, 0xFFF0), (2, 8), (3, 0xFFF8)] []
    s.cfg.Legal ∧ (4 : XIx) ≠ 3 ∧ InRange s.cfg (s.xNat 1) (s.xNat 2) ∧ InRange s.cfg (s.xNat 3) (s.xNat 2) ∧
      8 * s.xNat 2 ≤ s.cfg.maxLen := by decide +kernel
theorem witness_bytes_return :
    let s := put small (ones 64) [(3, 0xFFF8)] []
    s.cfg.Legal ∧ (4 : XIx) ≠ 3 ∧ (s.v.get 0).bits.length % 8 = 0 ∧ (s.v.get 0).bits.length ≤ s.cfg.maxLen ∧
      InRange s.cfg (s.xNat 3) ((s.v.get 0).bits.length / 8) := by decide +kernel
theorem witness_offsets_return :
    let s := put small (ones 64) [(1, 0x10000 - 256)] []
    s.cfg.Legal ∧ (2 : XIx) ≠ 1 ∧ (s.v.get 0).bits.length ≤ s.cfg.maxLen ∧
      InRange s.cfg (s.xNat 1) (4 * (s.v.get 0).bits.count true) := by decide +kernel

end roundTrips

section encodings

theorem witness_wellFormed : (Instr.xor 7 [0, 1, 2, 3, 4, 5]).wellFormed = true := by decide
theorem witness_decodable : decode 0x00000001#32 = .ok .halt := by decide

end encodings

section machineStates

theorem witness_running :
    running.busy = true ∧ running.due = none ∧ running.pc.toNat % 4 = 0 ∧ running.pc.toNat + 4 ≤ running.cfg.dmemBytes ∧
      decode (wordAtPc running) = .ok .nop := by decide +kernel
/-- An arrival that is due during a run, with an access held; on an idle engine; and while `rst` is asserted, with an access held. -/
theorem witness_due :
    ∀ s ∈ [{ running with held := [.read 0x18 .w32], inbox := [{ delay := 0, event := .access (.write 0x10 .w32 4) }] },
        { small with inbox := [{ delay := 0, event := .rstAssert }] },
        { small with rst := true, held := [.read 0x18 .w32], inbox := [{ delay := 0, event := .rstRelease }] }],
      (s.busy = true ∨ s.rst = true ∨ s.held = []) ∧ ∃ e ∈ s.inbox.head?, e.delay = 0 := by decide +kernel
/-- An idle engine with nothing due: nothing to come, or an arrival one step away. -/
theorem witness_idle :
    ∀ s ∈ [small, { small with inbox := [{ delay := 1, event := .rstAssert }] }],
      s.busy = false ∧ (s.rst = true ∨ s.held = []) ∧ s.due = none := by decide +kernel
theorem witness_misaligned :
    ({ running with pc := 1 } : State).busy = true ∧ ({ running with pc := 1 } : State).due = none ∧
      ({ running with pc := 1 } : State).pc.toNat % 4 ≠ 0 := by decide +kernel
theorem witness_fetch_out :
    let s : State := { running with pc := 0x10000 }
    s.busy = true ∧ s.due = none ∧ s.pc.toNat % 4 = 0 ∧ s.cfg.dmemBytes < s.pc.toNat + 4 := by decide +kernel
theorem witness_illegal :
    let s : State := { running with mem := [(8, 0), (9, 0), (10, 0), (11, 0)] }
    s.busy = true ∧ s.due = none ∧ s.pc.toNat % 4 = 0 ∧ s.pc.toNat + 4 ≤ s.cfg.dmemBytes ∧
      ∀ i, decode (wordAtPc s) ≠ .ok i := by
  intro s
  have h : decode (wordAtPc s) = .error (.unassignedOpcode 0) := by decide +kernel
  exact ⟨by decide +kernel, by decide +kernel, by decide +kernel, by decide +kernel, fun i => by rw [h]; simp⟩
theorem witness_exec_next : exec .nop running = .next { running with pc := running.pc + 4 } := rfl
theorem witness_not_halt : Instr.nop ≠ .halt := by decide
theorem witness_good :
    running.Good ∧ step running = .next
      { running with
        pc := 12, inbox := [{ delay := 4, event := .access (.read 0x14 .w32) }] } := by
  refine ⟨by decide +kernel, ?_⟩
  have h : nextOf (step running) = some
      { running with
        pc := 12, inbox := [{ delay := 4, event := .access (.read 0x14 .w32) }] } := by decide +kernel
  revert h
  cases step running <;> simp [nextOf]
theorem witness_legal_parameters :
    Config.Legal { maxLen := 64, numBits := 32, dmemBytes := 4 } ∧
      Config.Legal { maxLen := 2 ^ 32 - 8, numBits := 64, dmemBytes := 2 ^ 32 - 2 ^ 16 } := by decide +kernel
/-- An idle machine, and a run, that a CTRL write with SRST meets. -/
theorem witness_soft_reset :
    (Memory.wf small.mem ∧ small.rst = false ∧ (4#32).getLsbD 2 = true ∧ small.busy = false) ∧
      Memory.wf running.mem ∧ running.rst = false ∧ running.busy = true := by decide +kernel
theorem witness_rst :
    ({ small with rst := true } : State).rst = true ∧ ({ small with rst := true } : State).busy = false ∧
      ({ small with rst := true } : State).due = none := by decide +kernel
theorem witness_ctrl :
    small.rst = false ∧ (1#32).getLsbD 2 = false ∧ (1#32).getLsbD 0 = true ∧ small.busy = false ∧
      (2#32).getLsbD 2 = false ∧ (2#32).getLsbD 0 = false ∧ running.rst = false ∧ running.busy = true := by decide +kernel
/-- The last byte of DMEM during a run, and an access held behind a run that is over. -/
theorem witness_stall :
    running.rst = false ∧ running.busy = true ∧
      (HostAccess.write 0x1FFFF .w8 0).shared running.cfg = true ∧
      (∀ d : Word, d.getLsbD 2 = true → HostAccess.write 0x1FFFF .w8 0 ≠ .write 0x10 .w32 d) ∧
      ({ small with held := [.read 0x18 .w32] } : State).busy = false ∧
      ({ small with held := [.read 0x18 .w32] } : State).rst = false := by
  refine ⟨by decide +kernel, by decide +kernel, by decide +kernel, fun d _ => by simp, by decide +kernel, by decide +kernel⟩
/-- Reads that are answered at once: of STATUS during a run, and of DMEM's last byte on an idle engine. -/
theorem witness_answered :
    small.rst = false ∧ small.busy = false ∧ running.rst = false ∧ running.busy = true ∧
      (HostAccess.read 0x14 .w32).shared running.cfg = false := by decide +kernel
/-- During a run: PC, the last half of X, and the first and the last byte of DMEM, at any width. -/
theorem witness_stalled_offsets :
    running.rst = false ∧ running.busy = true ∧ (0x18#32).toNat = 0x18 ∧ (0x7C#32).toNat ≤ 0x7C ∧ (0x7C#32).toNat % 4 = 0 ∧
      0x10000 ≤ (0x10000#32).toNat ∧ (0x1FFFF#32).toNat < 0x10000 + running.cfg.dmemBytes := by decide +kernel
/-- Offsets that no register occupies, the first and the last of each gap. -/
theorem witness_unoccupied :
    ∀ n ∈ [0x28, 0x3C, 0x80, 0xFFFC], (BitVec.ofNat 32 n).toNat % 4 = 0 ∧ 0x28 ≤ (BitVec.ofNat 32 n).toNat ∧
      (BitVec.ofNat 32 n).toNat < 0x10000 ∧
      ¬(0x40 ≤ (BitVec.ofNat 32 n).toNat ∧ (BitVec.ofNat 32 n).toNat ≤ 0x7C) := by decide +kernel
/-- Another alignment, a narrower width and a wider one (64 bits) up to the end of the register window; the end of DMEM. -/
theorem witness_malformed :
    ((0xFFFB#32).toNat + Width.w32.bytes ≤ 0x10000 ∧ ¬(Width.w32 = .w32 ∧ (0xFFFB#32).toNat % 4 = 0)) ∧
      ((0xFFFF#32).toNat + Width.w8.bytes ≤ 0x10000 ∧ ¬(Width.w8 = .w32 ∧ (0xFFFF#32).toNat % 4 = 0)) ∧
      ((0xFFF8#32).toNat + (Width.wider 3).bytes ≤ 0x10000 ∧ ¬(Width.wider 3 = .w32 ∧ (0xFFF8#32).toNat % 4 = 0)) ∧
      0x10000 + running.cfg.dmemBytes ≤ (0x20000#32).toNat := by decide +kernel
/-- The last element of DMEM at each width, and a byte below and above the range of a write of 64 bits. -/
theorem witness_dmem_window :
    small.rst = false ∧ small.busy = false ∧
      (0xFFFF + 1 ≤ small.cfg.dmemBytes ∧ (0x1FFFF#32).toNat = 0x10000 + 0xFFFF) ∧
      (0xFFFE + 2 ≤ small.cfg.dmemBytes ∧ (0x1FFFE#32).toNat = 0x10000 + 0xFFFE) ∧
      (0xFFFC + 4 ≤ small.cfg.dmemBytes ∧ (0x1FFFC#32).toNat = 0x10000 + 0xFFFC) ∧
      0x10000 ≤ (0x10008#32).toNat ∧ 0x10000 + 7 < (0x10008#32).toNat ∧
      (0x10008#32).toNat + (Width.wider 3).bytes ≤ 0x10000 + 16 := by decide +kernel
/-- Accesses across offset 0x10000 and across the end of DMEM, on an idle engine and behind a run. -/
theorem witness_spanning :
    small.rst = false ∧ small.busy = false ∧ running.rst = false ∧ running.busy = true ∧
      ¬(Width.w32 = .w32 ∧ (0xFFFD#32).toNat % 4 = 0 ∧ (0xFFFD#32).toNat < 0x10000) ∧
      ¬(Width.w32 = .w32 ∧ (0x1FFFF#32).toNat % 4 = 0 ∧ (0x1FFFF#32).toNat < 0x10000) ∧
      (0xFFFF#32).toNat < 0x10000 ∧ 0x10000 < (0xFFFF#32).toNat + Width.w16.bytes ∧ 0 < running.cfg.dmemBytes := by
  decide +kernel
/-- A run that starts at address 0 with no host about. -/
theorem witness_silent_run :
    ({ running with inbox := [], pc := 0 } : State).cfg.Legal ∧ ({ running with inbox := [], pc := 0 } : State).inbox = [] := by
  decide +kernel

end machineStates

end witnesses

end Sys2Proof.Tests
end

section
/-! SUPPORT. The lengths of what the commands compute stay within MAXLEN (10_state.md R20). -/

namespace Sys2Proof.Machine

section lengths

variable {c : Config}

/-- The digits of a number of the numeric domain fit in a vector register, for NUMBITS ≤ 64 ≤ MAXLEN (00_scope.md R6). -/
theorem length_lsbDigits_le (hc : c.Legal) {n : Nat} (hn : n < 2 ^ c.numBits) : (lsbDigits n).length ≤ c.maxLen := by
  obtain ⟨-, hmin, -, -, hbits, -⟩ := hc
  have hsize : Nat.size n ≤ c.numBits := Nat.size_le.2 hn
  rw [length_lsbDigits]
  omega

/-- Octet alignment never passes MAXLEN, a positive multiple of 8 (00_scope.md R6). -/
theorem length_octetAlign_le (hc : c.Legal) {l : List Bool} (hl : l.length ≤ c.maxLen) :
    (octetAlign l).length ≤ c.maxLen := by
  obtain ⟨hmod, hmin, -⟩ := hc
  rw [length_octetAlign]
  split <;> omega

theorem length_octetDigits_le (hc : c.Legal) {n : Nat} (hn : n < 2 ^ c.numBits) : (octetDigits n).length ≤ c.maxLen := by
  rw [octetDigits, List.length_reverse]
  exact length_octetAlign_le hc (length_lsbDigits_le hc hn)

/-- The octet-aligned digits of a byte are exactly 8 (41_codec_import.md R167). -/
theorem length_octetDigits_byte (b : Byte) : (octetDigits b.toNat).length = 8 := by
  have hsize : Nat.size b.toNat ≤ 8 := Nat.size_le.2 b.isLt
  have hzero : Nat.size b.toNat = 0 ↔ b.toNat = 0 := Nat.size_eq_zero
  rw [length_octetDigits]
  split <;> omega

theorem length_flatMap_octetDigits (bs : List Byte) :
    (bs.flatMap fun b => octetDigits b.toNat).length = 8 * bs.length := by
  simp [List.length_flatMap, length_octetDigits_byte, Nat.mul_comm]

/-- Offsets below a bound, set one after the other, leave the length within the bound (41_codec_import.md R163). -/
theorem length_foldl_setOffset_le {n : Nat} (offs : List Nat) (ho : ∀ o ∈ offs, o < n) (l : List Bool)
    (hl : l.length ≤ n) : (offs.foldl setOffset l).length ≤ n := by
  induction offs generalizing l with
  | nil => exact hl
  | cons o offs ih =>
    have hlt : o < n := ho o (List.mem_cons_self ..)
    refine ih (fun p hp => ho p (List.mem_cons_of_mem _ hp)) _ ?_
    rw [length_setOffset]
    omega

end lengths

end Sys2Proof.Machine
end

section
/-! SUPPORT. What each command can do, said once: it raises a fault, or it writes the destinations that 10_state.md R23, R26
and 20_memory.md R60 name for it and advances PC. The frame of the commands and the invariant are read off this. -/

namespace Sys2Proof.Machine

open Sys2Proof.Claims

/-- Legal parameters, and every vector register within them (10_state.md R20). -/
structure State.WithinLimits (s : State) : Prop where
  legal : s.cfg.Legal
  vregs : ∀ j : VIx, VReg.Ok s.cfg (s.v.get j)

/-- The results that command `i` may have in state `s`. A vector register that it writes stays within the limits. -/
inductive CommandEffect (i : Instr) (s : State) : Result → Prop where
  | raised (f : Trap) (info : Nat) : CommandEffect i s (s.raise f info)
  | advanced : CommandEffect i s s.complete
  | halted : CommandEffect i s ({ s with busy := false, done := true } : State).complete
  | wroteVector {rd : VIx} {r : VReg} (hv : writesV i = some rd) (hr : s.WithinLimits → VReg.Ok s.cfg r) :
      CommandEffect i s (s.setV rd r).complete
  | wroteScalar {rd : XIx} {n : Nat} (hx : writesX i = some rd) : CommandEffect i s (s.setX rd n).complete
  | wroteBoth {ra : VIx} {r : VReg} {rd : XIx} {n : Nat} (hv : writesV i = some ra) (hx : writesX i = some rd)
      (hr : s.WithinLimits → VReg.Ok s.cfg r) : CommandEffect i s ((s.setV ra r).setX rd n).complete
  | exported {rd : XIx} {a n : Nat} {bs : List Byte} (hx : writesX i = some rd) (hm : writesDmem i = true)
      (ha : InRange s.cfg a bs.length) : CommandEffect i s ((s.memWrite a bs).setX rd n).complete

namespace CommandEffect

variable {i : Instr} {s : State}

theorem result {rd : VIx} {bits : List Bool} (hv : writesV i = some rd)
    (hb : s.WithinLimits → bits.length ≤ s.cfg.maxLen) : CommandEffect i s (s.writeResult rd bits).complete :=
  .wroteVector hv fun h => ⟨hb h, Nat.zero_le _⟩

theorem inCapacity {n : Nat} {use : Result} (h : n ≤ s.cfg.maxLen → CommandEffect i s use) :
    CommandEffect i s (s.inCapacity n use) := by
  rcases s.inCapacity_cases n use with ⟨hn, he⟩ | ⟨-, he⟩ <;> rw [he]
  · exact h hn
  · exact .raised ..

theorem inDomain {n : Nat} {use : Nat → Result} (h : ∀ v < 2 ^ s.cfg.numBits, CommandEffect i s (use v)) :
    CommandEffect i s (s.inDomain n use) := by
  rcases s.inDomain_cases n use with ⟨hn, he⟩ | ⟨-, he⟩ <;> rw [he]
  · exact h n hn
  · exact .raised ..

theorem fromSource {a n : Nat} {use : List Byte → Result} (h : ∀ bs, bs.length = n → CommandEffect i s (use bs)) :
    CommandEffect i s (s.fromSource a n use) := by
  rcases s.fromSource_cases a n use with ⟨-, he⟩ | ⟨-, he⟩ <;> rw [he]
  · exact h _ (s.length_memRead a n)
  · exact .raised ..

theorem toDest {rd : XIx} {a n : Nat} {bs : List Byte} (hx : writesX i = some rd) (hm : writesDmem i = true) :
    CommandEffect i s (s.toDest rd a bs n) := by
  rcases s.toDest_cases rd a bs n with ⟨ha, he⟩ | ⟨-, he⟩ <;> rw [he]
  · exact .exported hx hm ha
  · exact .raised ..

/-- A number delivered as its digits: FNUM, FDEC, FHEX and FHEXN. -/
theorem number {rd : VIx} {n : Nat} (hv : writesV i = some rd) :
    CommandEffect i s (s.inDomain n fun v => (s.writeResult rd (lsbDigits v)).complete) :=
  .inDomain fun _ hn => .result hv fun h => length_lsbDigits_le h.legal hn

theorem vote {rd : VIx} {f : Nat → Nat → Bool} {ops : List VIx} (hv : writesV i = some rd) :
    CommandEffect i s (s.writeResult rd (reconcile f (s.operands ops))).complete := by
  refine .result hv fun h => ?_
  rw [length_reconcile]
  refine longest_le fun l hl => ?_
  obtain ⟨k, -, rfl⟩ := List.mem_map.1 hl
  exact (h.vregs k).1

end CommandEffect

section commands

variable (s : State)

theorem CommandEffect.get (rd : XIx) (ra : VIx) (rb : XIx) : CommandEffect (.get rd ra rb) s (exec (.get rd ra rb) s) := by
  refine .inCapacity fun hk => .wroteBoth rfl rfl fun h => ?_
  have hok := h.vregs ra
  refine ⟨?_, ?_⟩
  · rw [VReg.cover_length]; omega
  · rw [VReg.cover_floor]; exact hok.2

theorem CommandEffect.set (rd : VIx) (ra rb : XIx) : CommandEffect (.set rd ra rb) s (exec (.set rd ra rb) s) := by
  refine .inCapacity fun hk => .wroteVector rfl fun h => ?_
  have hok := h.vregs rd
  refine ⟨?_, ?_⟩
  · rw [List.length_set, VReg.cover_length]; omega
  · rw [VReg.cover_floor]; exact hok.2

theorem CommandEffect.pop (rd : XIx) (ra : VIx) : CommandEffect (.pop rd ra) s (exec (.pop rd ra) s) := by
  simp only [exec, execPop]
  split
  · exact .wroteScalar rfl
  · refine .wroteBoth rfl rfl fun h => ⟨?_, (h.vregs ra).2⟩
    rw [List.length_dropLast]
    exact (Nat.sub_le ..).trans (h.vregs ra).1

theorem CommandEffect.idxof (rd : XIx) (ra : VIx) (rb : XIx) :
    CommandEffect (.idxof rd ra rb) s (exec (.idxof rd ra rb) s) := by
  simp only [exec, execIdxof]
  split
  · split <;> exact .wroteScalar rfl
  · exact .wroteScalar rfl

theorem CommandEffect.slice (rd ra : VIx) (rb rc : XIx) :
    CommandEffect (.slice rd ra rb rc) s (exec (.slice rd ra rb rc) s) := by
  refine .result rfl fun h => ?_
  have hlen := (h.vregs ra).1
  split
  · rw [List.length_drop, List.length_take]; omega
  · exact Nat.zero_le _

theorem CommandEffect.fbin (rd : VIx) (ra rb : XIx) : CommandEffect (.fbin rd ra rb) s (exec (.fbin rd ra rb) s) := by
  simp only [exec, execFbin]
  refine .fromSource fun bs hlen => ?_
  split
  · exact .raised ..
  · exact .inCapacity fun hn => .result rfl fun _ => by rwa [List.length_map, List.length_reverse, hlen]

theorem CommandEffect.ldbits (rd : VIx) (ra rb : XIx) :
    CommandEffect (.ldbits rd ra rb) s (exec (.ldbits rd ra rb) s) := by
  simp only [exec, execLdbits]
  refine .fromSource fun bs hlen => ?_
  split
  · exact .raised ..
  · exact .inCapacity fun hn => .result rfl fun _ => by rwa [List.length_map, hlen]

theorem CommandEffect.foff (rd : VIx) (ra rb : XIx) : CommandEffect (.foff rd ra rb) s (exec (.foff rd ra rb) s) := by
  simp only [exec, execFoff]
  refine .fromSource fun bs hlen => ?_
  split
  · exact .raised ..
  case h_2 hnone =>
    refine .result rfl fun _ => length_foldl_setOffset_le _ (fun o ho => ?_) [] (Nat.zero_le _)
    simpa using List.find?_eq_none.1 hnone o ho

theorem CommandEffect.fdec (rd : VIx) (ra rb : XIx) : CommandEffect (.fdec rd ra rb) s (exec (.fdec rd ra rb) s) := by
  simp only [exec, execFdec]
  refine .fromSource fun bs hlen => ?_
  split
  · exact .raised ..
  · exact .number rfl

theorem CommandEffect.fhex (rd : VIx) (ra rb : XIx) : CommandEffect (.fhex rd ra rb) s (exec (.fhex rd ra rb) s) := by
  simp only [exec, execFhex]
  refine .fromSource fun bs hlen => ?_
  split
  · exact .raised ..
  · exact .number rfl

theorem CommandEffect.popc32 (rd ra : XIx) : CommandEffect (.popc32 rd ra) s (exec (.popc32 rd ra) s) := by
  simp only [exec, execPopc32]
  split
  · exact .raised ..
  · exact .wroteScalar rfl

/-- What every command can do, in every state. -/
theorem exec_effect (i : Instr) : CommandEffect i s (exec i s) := by
  cases i with
  | halt => exact .halted
  | nop => exact .advanced
  | li rd imm => exact .wroteScalar rfl
  | lis rd imm => exact .wroteScalar rfl
  | fill rd ra =>
    refine .inCapacity fun hn => .wroteVector rfl fun h => ⟨?_, ?_⟩
    · rw [VReg.fill_length]; exact max_le (h.vregs rd).1 hn
    · rw [VReg.fill_floor]; exact (h.vregs rd).2
  | set rd ra rb => exact .set ..
  | setv rd ra =>
    refine .wroteVector rfl fun h => ⟨?_, ?_⟩
    · rw [VReg.fill_length]; exact max_le (h.vregs ra).1 (h.vregs rd).2
    · rw [VReg.fill_floor]; exact (h.vregs rd).2
  | get rd ra rb => exact .get ..
  | clr rd => exact .wroteVector rfl fun h => ⟨by rw [length_zeros]; exact (h.vregs rd).2, (h.vregs rd).2⟩
  | clone rd ra => exact .wroteVector rfl fun h => ⟨(h.vregs ra).1, Nat.zero_le _⟩
  | eq rd ra rb => exact .wroteScalar rfl
  | push rd ra =>
    exact .inCapacity fun hn => .wroteVector rfl fun h => ⟨by simpa using hn, (h.vregs rd).2⟩
  | pop rd ra => exact .pop ..
  | brev rd => exact .wroteVector rfl fun h => ⟨by rw [List.length_reverse]; exact (h.vregs rd).1, (h.vregs rd).2⟩
  | idxof rd ra rb => exact .idxof ..
  | slice rd ra rb rc => exact .slice ..
  | len rd ra => exact .wroteScalar rfl
  | sflr rd ra =>
    refine .inCapacity fun hn => .wroteVector rfl fun h => ⟨?_, ?_⟩
    · rw [VReg.fill_length]; exact max_le (h.vregs rd).1 hn
    · rw [VReg.fill_floor]; exact hn
  | new rd => exact .result rfl fun _ => Nat.zero_le _
  | fbin rd ra rb => exact .fbin ..
  | fnum rd ra => exact .number rfl
  | fnumo rd ra => exact .inDomain fun _ hn => .result rfl fun h => length_octetDigits_le h.legal hn
  | ldbits rd ra rb => exact .ldbits ..
  | fints rd ra rb => exact .fromSource fun _ _ => .inCapacity fun hn => .result rfl fun _ => hn
  | octet rd ra => exact .result rfl fun h => length_octetAlign_le h.legal (h.vregs ra).1
  | foff rd ra rb => exact .foff ..
  | fdec rd ra rb => exact .fdec ..
  | fhex rd ra rb => exact .fhex ..
  | fhexn rd ra => exact .inDomain fun _ _ => .number rfl
  | fbytes rd ra rb =>
    refine .fromSource fun bs hlen => .inCapacity fun hn => .result rfl fun _ => ?_
    rwa [length_flatMap_octetDigits, hlen]
  | tooff rd ra rb => exact .toDest rfl rfl
  | tobytes rd ra rb => exact .toDest rfl rfl
  | tonum rd ra => exact .inDomain fun _ _ => .wroteScalar rfl
  | tohex rd ra rb => exact .inDomain fun _ _ => .toDest rfl rfl
  | tostr rd ra rb => exact .toDest rfl rfl
  | tobits rd ra rb => exact .toDest rfl rfl
  | and rd ops => exact .vote rfl
  | or rd ops => exact .vote rfl
  | xor rd ops => exact .vote rfl
  | not rd ra => exact .result rfl fun h => by rw [List.length_map]; exact (h.vregs ra).1
  | popc32 rd ra => exact .popc32 ..
  | popcv rd ra => exact .wroteScalar rfl
  | popcb rd ra rb => exact .fromSource fun _ _ => .wroteScalar rfl

end commands

end Sys2Proof.Machine
end

section
/-! SUPPORT. The frame of the commands (10_state.md R22, R23, R26; 20_memory.md R60). -/

namespace Sys2Proof.Machine

open Sys2Proof.Claims

theorem File8.get_set_of_not_dest {α : Type} {dest : Option (Fin 8)} {d j : Fin 8} (hd : dest = some d)
    (hj : dest ≠ some j) (f : File8 α) (a : α) : (f.set d a).get j = f.get j :=
  File8.get_set_ne f a fun h => hj (h ▸ hd)

/-- Registers and memory that a command does not name as its destination are as before. -/
theorem CommandEffect.frame {i : Instr} {s t : State} (h : CommandEffect i s (.next t)) :
    (∀ j, writesV i ≠ some j → t.v.get j = s.v.get j) ∧
    (∀ j, writesX i ≠ some j → t.x.get j = s.x.get j) ∧
    (writesDmem i = false → t.mem = s.mem) := by
  cases h with
  | raised | advanced | halted => exact ⟨fun _ _ => rfl, fun _ _ => rfl, fun _ => rfl⟩
  | wroteVector hv => exact ⟨fun _ hj => File8.get_set_of_not_dest hv hj .., fun _ _ => rfl, fun _ => rfl⟩
  | wroteScalar hx => exact ⟨fun _ _ => rfl, fun _ hj => File8.get_set_of_not_dest hx hj .., fun _ => rfl⟩
  | wroteBoth hv hx =>
    exact ⟨fun _ hj => File8.get_set_of_not_dest hv hj .., fun _ hj => File8.get_set_of_not_dest hx hj .., fun _ => rfl⟩
  | exported hx hm =>
    exact ⟨fun _ _ => rfl, fun _ hj => File8.get_set_of_not_dest hx hj .., fun hn => absurd hm (by simp [hn])⟩

/-- Settles O49: each command has one of the effects of `CommandEffect`, and each of those has this frame. -/
theorem commandsWriteOnlyTheirDestinations : Obligations.CommandsWriteOnlyTheirDestinations := by
  intro i s t ht
  exact CommandEffect.frame (ht ▸ exec_effect s i)

end Sys2Proof.Machine
end

section
/-! SUPPORT. The good states (Sys2Proof/Safety.lean): each thing that a step of the block can do keeps them. -/

namespace Sys2Proof.Machine

section engine

theorem VReg.ok_set {c : Config} {f : File8 VReg} {r : VReg} (hf : ∀ j, VReg.Ok c (f.get j)) (hr : VReg.Ok c r)
    (i j : VIx) : VReg.Ok c ((f.set i r).get j) := by
  rw [File8.get_set]
  split
  · exact hr
  · exact hf j

/-- A store inside DMEM keeps memory canonical and inside DMEM. -/
theorem State.memOk_memWrite {s : State} (hs : s.MemOk) {a : Nat} {bs : List Byte} (ha : InRange s.cfg a bs.length) :
    (s.memWrite a bs).MemOk := by
  obtain ⟨hwf, hin⟩ := hs
  refine ⟨Memory.store_wf hwf a bs, fun c hc => ?_⟩
  rcases Memory.mem_store hc with hold | hnew
  · exact hin c hold
  · show c.1 < s.cfg.dmemBytes
    omega

theorem State.good_withinLimits {s : State} (hs : s.Good) : s.WithinLimits := ⟨hs.1, hs.2.1⟩

/-- A fault during a run leaves FAULT with its code, DONE being 0 during a run (60_exceptions.md R302). -/
theorem State.good_enterFault {s : State} (hs : s.Good) (hb : s.busy = true) (f : Trap) (info : Nat) (w : Word) :
    (s.enterFault f info w).Good := by
  obtain ⟨hc, hv, hm, -, hrun, -, -⟩ := hs
  obtain ⟨hdone, -, -⟩ := hrun hb
  exact ⟨hc, hv, hm, by simp [State.StatusOk, hdone]⟩

/-- The end of a run by HALT (45_sequencer.md R281). -/
theorem State.good_halted {s : State} (hs : s.Good) (hb : s.busy = true) :
    ({ s with busy := false, done := true } : State).Good := by
  obtain ⟨hc, hv, hm, -, hrun, -, -⟩ := hs
  obtain ⟨-, hfault, -⟩ := hrun hb
  exact ⟨hc, hv, hm, by simp [State.StatusOk, hfault]⟩

theorem CommandEffect.good {i : Instr} {s t : State} (h : CommandEffect i s (.next t)) (hs : s.Good)
    (hb : s.busy = true) : t.Good := by
  have ⟨hc, hv, hm, hst⟩ := hs
  have hlim := State.good_withinLimits hs
  cases h with
  | raised f info => exact State.good_enterFault hs hb f info _
  | advanced => exact hs
  | halted => exact (State.good_halted hs hb :)
  | wroteVector _ hr => exact ⟨hc, VReg.ok_set hv (hr hlim) _, hm, hst⟩
  | wroteScalar => exact ⟨hc, hv, hm, hst⟩
  | wroteBoth _ _ hr => exact ⟨hc, VReg.ok_set hv (hr hlim) _, hm, hst⟩
  | exported _ _ ha => exact ⟨hc, hv, State.memOk_memWrite hm ha, hst⟩

theorem CommandEffect.cfg {i : Instr} {s t : State} (h : CommandEffect i s (.next t)) : t.cfg = s.cfg := by
  cases h <;> rfl

/-- A command cycle ends in a fault entry or has an effect of the decoded command (45_sequencer.md R280). -/
theorem engineStep_effect {s t : State} (h : engineStep s = .next t) :
    (∃ f info w, t = s.enterFault f info w) ∨ ∃ i, CommandEffect i s (.next t) := by
  rcases engineStep_cases s with ⟨-, he⟩ | ⟨-, -, he⟩ | ⟨-, -, ⟨-, -, he⟩ | ⟨i, -, he⟩⟩
  case inr.inr.inr => exact .inr ⟨i, h ▸ he ▸ exec_effect s i⟩
  all_goals exact .inl ⟨_, _, _, Host.Outcome.next.inj (h.symm.trans he)⟩

theorem engineStep_cfg {s t : State} (h : engineStep s = .next t) : t.cfg = s.cfg := by
  rcases engineStep_effect h with ⟨f, info, w, rfl⟩ | ⟨i, he⟩
  · rfl
  · exact he.cfg

theorem engineStep_good {s t : State} (hs : s.Good) (hb : s.busy = true) (h : engineStep s = .next t) : t.Good := by
  rcases engineStep_effect h with ⟨f, info, w, rfl⟩ | ⟨i, he⟩
  · exact State.good_enterFault hs hb f info w
  · exact he.good hs hb

end engine

section host

/-- The machine of legal parameters after reset is good (10_state.md R41). -/
theorem State.good_resetWith {c : Config} (hc : c.Legal) : (State.resetWith c).Good := by
  refine ⟨hc, fun i => ?_, ⟨List.Pairwise.nil, by simp [State.resetWith]⟩, by simp [State.StatusOk, State.resetWith]⟩
  have hempty : (State.resetWith c).v.get i = .empty := by fin_cases i <;> rfl
  rw [hempty]
  exact ⟨Nat.zero_le _, Nat.zero_le _⟩

/-- The command that a soft reset cuts short lists nothing outside DMEM, because the completed command would not. -/
theorem State.memOk_cutShort {s : State} (hs : s.Good) (hb : s.busy = true) :
    Memory.wf s.cutShort ∧ ∀ c ∈ s.cutShort, c.1 < s.cfg.dmemBytes := by
  have ⟨_, _, ⟨hwf, hin⟩, _⟩ := hs
  obtain ⟨hcut, hmem⟩ := s.cutShort_cases hwf
  refine ⟨hcut, fun c hc => ?_⟩
  rcases hmem c hc with hold | ⟨t, ht, d, hd, hdc⟩
  · exact hin c hold
  · obtain ⟨-, -, ⟨-, hin'⟩, -⟩ := engineStep_good hs hb ht
    rw [← hdc, ← engineStep_cfg ht]
    exact hin' d hd

theorem State.good_softReset {s : State} (hs : s.Good) : s.softReset.Good := by
  have ⟨hc, _, hm, _⟩ := hs
  obtain ⟨-, hv, -, -⟩ := State.good_resetWith hc
  refine ⟨hc, hv, ?_, by simp [State.StatusOk, State.softReset, State.resetWith]⟩
  show Memory.wf (if s.busy then s.cutShort else s.mem) ∧
    ∀ c ∈ (if s.busy then s.cutShort else s.mem), c.1 < s.cfg.dmemBytes
  split
  · next hb => exact State.memOk_cutShort hs hb
  · exact hm

theorem State.good_powerOnReset {s : State} (hs : s.Good) : s.powerOnReset.Good := by
  obtain ⟨hc, hv, hm, -⟩ := State.good_resetWith hs.1
  exact ⟨hc, hv, hm, by simp [State.StatusOk, State.powerOnReset, State.resetWith]⟩

theorem State.good_go {s : State} (hs : s.Good) (hrst : s.rst = false) : s.go.Good := by
  obtain ⟨hc, hv, hm, -⟩ := hs
  exact ⟨hc, hv, hm, by simp [State.StatusOk, hrst]⟩

theorem State.good_writeCtrl {s : State} (hs : s.Good) (hrst : s.rst = false) (d : Word) : (s.writeCtrl d).Good := by
  unfold State.writeCtrl
  split
  · exact State.good_softReset hs
  · dsimp only
    split
    · exact State.good_go hs hrst
    · exact hs

/-- Clearing DONE or FAULT asks nothing new of the status; FCODE is left (10_state.md R34). -/
theorem State.good_writeStatus {s : State} (hs : s.Good) (d : Word) : (s.writeStatus d).Good := by
  obtain ⟨hc, hv, hm, hexcl, hrun, hcode, hrst⟩ := hs
  have hdone : (s.writeStatus d).done = true → s.done = true := Bool.and_elim_left
  have hfault : (s.writeStatus d).fault = true → s.fault = true := Bool.and_elim_left
  refine ⟨hc, hv, hm, fun ⟨h1, h2⟩ => hexcl ⟨hdone h1, hfault h2⟩, fun hb => ?_, fun h => hcode (hfault h), hrst⟩
  obtain ⟨h1, h2, h3⟩ := hrun hb
  simp [State.writeStatus, h1, h2, h3]

/-- All that a register write can do (10_state.md R29, R38). -/
theorem State.writeReg_cases (s : State) (off : Nat) (d : Word) :
    s.writeReg off d = s ∨ (∃ i n, s.writeReg off d = s.setX i n) ∨ s.writeReg off d = s.writeCtrl d ∨
      s.writeReg off d = s.writeStatus d ∨ s.writeReg off d = { s with pc := d } := by
  unfold State.writeReg
  split
  · exact .inr (.inl ⟨_, _, rfl⟩)
  · split <;> simp

theorem State.good_writeReg {s : State} (hs : s.Good) (hrst : s.rst = false) (off : Nat) (d : Word) :
    (s.writeReg off d).Good := by
  rcases s.writeReg_cases off d with he | ⟨i, n, he⟩ | he | he | he <;> rw [he]
  · exact hs
  · exact hs
  · exact State.good_writeCtrl hs hrst d
  · exact State.good_writeStatus hs d
  · exact hs

theorem State.good_hostWrite {s : State} (hs : s.Good) (hrst : s.rst = false) (off : Nat) (w : Width) (d : Word) :
    (s.hostWrite off w d).Good := by
  by_cases hreg : isRegAccess off w
  · rw [State.hostWrite, if_pos hreg]
    exact State.good_writeReg hs hrst off d
  · obtain ⟨hc, hv, ⟨hwf, hin⟩, hst⟩ := hs
    obtain ⟨hwf', hmem⟩ := s.hostWrite_wf_of_not_reg d hreg hwf
    rw [s.hostWrite_eq_of_not_reg d hreg]
    exact ⟨hc, hv, ⟨hwf', fun c hc => (hmem c hc).elim (hin c) id⟩, hst⟩

theorem State.good_perform {s : State} (hs : s.Good) (hrst : s.rst = false) (a : HostAccess) : (s.perform a).Good := by
  cases a with
  | read off w => exact hs
  | write off w d => exact State.good_hostWrite hs hrst off.toNat w d

theorem State.good_arrive {s : State} (hs : s.Good) (a : HostAccess) : (s.arrive a).Good := by
  rcases s.arrive_cases a with ⟨-, he⟩ | ⟨-, -, -, he⟩ | ⟨hrst, -, he⟩ <;> rw [he]
  · cases a <;> exact hs
  · exact hs
  · exact State.good_perform hs hrst a

theorem State.good_event {s : State} (hs : s.Good) (e : HostEvent) : (s.event e).Good := by
  cases e with
  | access a => exact State.good_arrive hs a
  | rstAssert => exact State.good_powerOnReset hs
  | rstRelease =>
    obtain ⟨hc, hv, hm, hexcl, hrun, hcode, -⟩ := hs
    exact ⟨hc, hv, hm, hexcl, hrun, hcode, fun h => nomatch h⟩

theorem State.good_tick {s : State} (hs : s.Good) : s.tick.Good := by
  simpa only [State.Good, State.MemOk, State.StatusOk, State.tick_cfg, State.tick_v, State.tick_mem, State.tick_busy,
    State.tick_done, State.tick_fault, State.tick_fcode, State.tick_rst] using hs

/-- No held access completes while `rst` is asserted. -/
theorem State.rst_of_release {s : State} {r : HostAccess × List HostAccess} (h : s.release = some r) : s.rst = false := by
  cases hr : s.rst
  · rfl
  · simp [State.release, hr] at h

end host

/-- Settles O51: a step completes a held access, takes an event, executes a command or only ticks, and each of these keeps the
good states. -/
theorem everyStepKeepsTheGoodStates : Obligations.EveryStepKeepsTheGoodStates := by
  intro s t hs ht
  rcases blockStep_cases s with ⟨a, rest, hrel, he⟩ | ⟨e, rest, -, -, he⟩ | ⟨-, -, hb, he⟩ | ⟨-, -, -, he⟩
  · obtain rfl := Host.Outcome.next.inj (he.symm.trans ht)
    exact State.good_perform (s := { s with held := rest }) hs (State.rst_of_release (s := s) hrel) a
  · obtain rfl := Host.Outcome.next.inj (he.symm.trans ht)
    exact State.good_event (s := { s with inbox := rest }) hs e
  · exact engineStep_good (State.good_tick hs) (s.tick_busy.trans hb) (he.symm.trans ht)
  · obtain rfl := Host.Outcome.next.inj (he.symm.trans ht)
    exact State.good_tick hs

/-- Settles O52: the reset state at the defaults is the one of legal parameters at a particular choice of them. -/
theorem theResetStateIsGood : Obligations.TheResetStateIsGood :=
  ⟨State.good_resetWith (by decide), fun _ hc => State.good_resetWith hc⟩

end Sys2Proof.Machine
end

section
/-! SUPPORT. The registers of the host window that report and control a run (10_state.md R29 to R34), and what the resets
leave in them (R41). -/

namespace Sys2Proof.Machine

open Sys2Proof.Claims

section writes

/-- A register write that never stalls takes place at once (20_memory.md R68). -/
theorem State.arrive_write_reg {s : State} (hrst : s.rst = false) {off : Word} (hreg : isRegAccess off.toNat .w32)
    (hstall : ¬isStallingReg off.toNat) (d : Word) : s.arrive (.write off .w32 d) = s.writeReg off.toNat d := by
  have hshared : ¬(HostAccess.write off .w32 d).shared s.cfg = true := by
    rw [HostAccess.shared_iff, reachesDmem_iff]
    rintro (⟨-, h⟩ | ⟨j, hj, h, -⟩)
    · exact hstall h
    · obtain ⟨hlt, -, halign⟩ := hreg
      simp only [HostAccess.off, HostAccess.width, Width.bytes, dmemBase] at hj h hlt
      omega
  rcases s.arrive_cases (.write off .w32 d) with ⟨h, -⟩ | ⟨-, -, h, -⟩ | ⟨-, -, he⟩
  · simp [hrst] at h
  · exact absurd h hshared
  · rw [he, State.perform, State.hostWrite, if_pos hreg]

theorem State.arrive_writeCtrl {s : State} (hrst : s.rst = false) (d : Word) :
    s.arrive (.write 0x10 .w32 d) = s.writeCtrl d :=
  State.arrive_write_reg hrst (by decide) (by decide) d

theorem State.arrive_writeStatus {s : State} (hrst : s.rst = false) (d : Word) :
    s.arrive (.write 0x14 .w32 d) = s.writeStatus d :=
  State.arrive_write_reg hrst (by decide) (by decide) d

/-- GO on an idle engine (10_state.md R33, 60_exceptions.md R308). -/
theorem State.writeCtrl_go {s : State} {d : Word} (hsrst : d.getLsbD 2 = false) (hgo : d.getLsbD 0 = true)
    (hb : s.busy = false) : s.writeCtrl d = ({ s with irqEn := d.getLsbD 1 } : State).go := by
  simp only [State.writeCtrl, hsrst, hgo, hb, and_self, if_true, Bool.false_eq_true, if_false]

/-- Without GO, or during a run, only IRQEN is written (10_state.md R33). -/
theorem State.writeCtrl_enable {s : State} {d : Word} (hsrst : d.getLsbD 2 = false)
    (hno : d.getLsbD 0 = false ∨ s.busy = true) : s.writeCtrl d = { s with irqEn := d.getLsbD 1 } := by
  have hgo : ¬(d.getLsbD 0 = true ∧ s.busy = false) := by
    rintro ⟨h0, hb⟩
    rcases hno with h | h
    · exact Bool.false_ne_true (h.symm.trans h0)
    · exact Bool.false_ne_true (hb.symm.trans h)
  simp only [State.writeCtrl, hsrst, hgo, if_false, Bool.false_eq_true]

/-- A 1 clears DONE or FAULT and a 0 leaves it (10_state.md R34). -/
theorem State.writeStatus_eq (s : State) (d : Word) :
    s.writeStatus d =
      { s with done := if d.getLsbD 1 then false else s.done, fault := if d.getLsbD 2 then false else s.fault } := by
  have hclear : ∀ a b : Bool, (a && !b) = if b then false else a := by decide
  rw [State.writeStatus, hclear, hclear]

/-- Settles O56: the write takes place at once, and starts a run exactly with GO on an idle engine. -/
theorem ctrlWritesEnableAndGo : Obligations.CtrlWritesEnableAndGo := by
  intro s d hrst hsrst
  rw [State.arrive_writeCtrl hrst]
  refine ⟨fun hgo hb => State.writeCtrl_go hsrst hgo hb, fun hno => State.writeCtrl_enable hsrst hno, ?_⟩
  show s.ctrlWord = _
  rw [State.ctrlWord]
  cases s.irqEn <;> rfl

end writes

section status

/-- Every code of 60_exceptions.md R300 fits the 8 bits of STATUS.FCODE. -/
theorem State.fcodeNat_lt (s : State) : s.fcodeNat < 2 ^ 8 := by
  unfold State.fcodeNat
  rcases s.fcode with _ | f
  · decide
  · cases f <;> decide

theorem State.statusWord_toNat (s : State) :
    s.statusWord.toNat =
      s.busy.toNat + s.done.toNat * 2 + s.fault.toNat * 4 + s.irq.toNat * 8 + s.fcodeNat * 2 ^ 8 := by
  have hcode := s.fcodeNat_lt
  have hb := s.busy.toNat_le
  have hd := s.done.toNat_le
  have hf := s.fault.toNat_le
  have hi := s.irq.toNat_le
  rw [State.statusWord, BitVec.toNat_ofNat]
  omega

/-- Bit `k` of a word whose number has the truth of `b` at that place. -/
theorem getLsbD_eq_of_div_mod {w : Word} {k : Nat} {b : Bool} (h : w.toNat / 2 ^ k % 2 = b.toNat) : w.getLsbD k = b := by
  rw [← BitVec.testBit_toNat, Nat.testBit_eq_decide_div_mod_eq, h]
  cases b <;> rfl

theorem State.irq_iff (s : State) : s.irq = true ↔ s.irqEn = true ∧ (s.done = true ∨ s.fault = true) := by
  rw [State.irq, Bool.and_eq_true, Bool.or_eq_true]

/-- Settles O57: the fields are read off the number that STATUS holds, whose four flags and code do not overlap. -/
theorem statusReadsAndClears : Obligations.StatusReadsAndClears := by
  intro s d
  have hw : (s.readReg 0x14).toNat = _ := s.statusWord_toNat
  have hcode := s.fcodeNat_lt
  have hb := s.busy.toNat_le
  have hd := s.done.toNat_le
  have hf := s.fault.toNat_le
  have hi := s.irq.toNat_le
  refine ⟨getLsbD_eq_of_div_mod ?_, getLsbD_eq_of_div_mod ?_, getLsbD_eq_of_div_mod ?_, getLsbD_eq_of_div_mod ?_,
    BitVec.eq_of_toNat_eq ?_, BitVec.eq_of_toNat_eq ?_, ?_, s.irq_iff, fun hrst => ?_⟩
  case refine_7 =>
    have hfield : ((s.readReg 0x14).extractLsb' 8 8).toNat = s.fcodeNat := by
      rw [BitVec.extractLsb'_toNat, hw, Nat.shiftRight_eq_div_pow]
      omega
    rw [hfield, State.fcodeNat]
    rcases s.fcode with _ | f
    · rfl
    · cases f <;> rfl
  case refine_8 => rw [State.arrive_writeStatus hrst, State.writeStatus_eq]
  case refine_5 | refine_6 =>
    rw [BitVec.extractLsb'_toNat, hw, Nat.shiftRight_eq_div_pow]
    show _ = 0
    omega
  all_goals
    rw [hw]
    omega

end status

section resets

/-- PARAMS as the fields of 10_state.md R31: NV, NX, MAXOPS and REV are fixed, and NUMBITS stands in bits 15:8. -/
theorem paramsWord_eq (c : Config) : paramsWord c = BitVec.ofNat 32 (0x01060088 + c.numBits * 256) := by
  simp only [paramsWord, Config.nv, Config.nx, Config.maxOps, Config.revision]
  congr 1
  omega

/-- STATUS of an idle engine with nothing to report (10_state.md R41). -/
theorem State.statusWord_zero {s : State} (hb : s.busy = false) (hd : s.done = false) (hf : s.fault = false)
    (hc : s.fcode = none) : s.statusWord = 0 := by
  simp [State.statusWord, State.irq, State.fcodeNat, hb, hd, hf, hc]

theorem State.readReg_params (s : State) : s.readReg 0x04 = paramsWord s.cfg := rfl

/-- The registers of the reset state, whatever stands in memory and outside the registers (10_state.md R41). -/
theorem atReset_of_resetWith (c : Config) (mem : Memory) (held : List HostAccess) (rst : Bool) (inbox : List Arrival)
    (replies : List Reply) (powerOns softResets otherWrites : Nat) :
    AtReset c { State.resetWith c with
      mem := mem, held := held, rst := rst, inbox := inbox, replies := replies, powerOns := powerOns
      softResets := softResets, otherWrites := otherWrites } := by
  refine ⟨fun i => ?_, fun i => ?_, rfl, rfl, rfl, rfl, rfl, rfl, State.statusWord_zero rfl rfl rfl rfl,
    rfl, rfl, rfl, rfl, rfl, paramsWord_eq c, rfl, rfl, rfl⟩
  · fin_cases i <;> rfl
  · fin_cases i <;> rfl

/-- Settles O53: each reset is the reset state but for memory and what lies outside the registers. -/
theorem resetLeavesTheListedValues : Obligations.ResetLeavesTheListedValues := by
  refine ⟨atReset_of_resetWith .., ?_, fun _ => ⟨atReset_of_resetWith .., atReset_of_resetWith ..⟩⟩
  rw [State.readReg_params, paramsWord_eq]
  rfl

end resets

end Sys2Proof.Machine
end

section
/-! SUPPORT. Host accesses to the windows (20_memory.md R61, R63, R68): which of them a run holds, what each of them reads and
writes, and what a run lets through. -/

namespace Sys2Proof.Machine

open Sys2Proof.Claims

section stalling

theorem isRegAccess_iff (off : Nat) (w : Width) : isRegAccess off w ↔ off < 0x10000 ∧ w = .w32 ∧ off % 4 = 0 := Iff.rfl

theorem inDmemWindow_iff (c : Config) (o : Nat) : inDmemWindow c o ↔ 0x10000 ≤ o ∧ o < 0x10000 + c.dmemBytes := Iff.rfl

theorem Width.bytes_pos (w : Width) : 0 < w.bytes := by
  cases w <;> simp [Width.bytes]

theorem reachesDmem_eq_false_iff (c : Config) (off : Nat) (w : Width) :
    reachesDmem c off w = false ↔ ∀ j < w.bytes, ¬inDmemWindow c (off + j) := by
  rw [← Bool.not_eq_true, reachesDmem_iff, not_exists]
  exact forall_congr' fun j => not_and

/-- A register access lies below the DMEM window. -/
theorem reachesDmem_of_isRegAccess (c : Config) {off : Nat} {w : Width} (h : isRegAccess off w) :
    reachesDmem c off w = false := by
  obtain ⟨hlt, rfl, halign⟩ := (isRegAccess_iff ..).1 h
  refine (reachesDmem_eq_false_iff ..).2 fun j (hj : j < 4) => ?_
  rw [inDmemWindow_iff]
  omega

theorem HostAccess.shared_eq_false_iff (c : Config) (a : HostAccess) :
    a.shared c = false ↔ ¬(isRegAccess a.off a.width ∧ isStallingReg a.off) ∧ reachesDmem c a.off a.width = false := by
  rw [← Bool.not_eq_true, HostAccess.shared_iff, not_or, Bool.not_eq_true]

/-- The registers other than PC and X0 to X7 never stall (20_memory.md R68). -/
theorem HostAccess.not_shared_of_reg (c : Config) {a : HostAccess} (hreg : isRegAccess a.off a.width)
    (hstall : ¬isStallingReg a.off) : a.shared c = false :=
  (a.shared_eq_false_iff c).2 ⟨fun h => hstall h.2, reachesDmem_of_isRegAccess c hreg⟩

/-- An access to no register and to no byte of DMEM never stalls (log entry 8). -/
theorem HostAccess.not_shared_of_unreached (c : Config) {a : HostAccess} (hreg : ¬isRegAccess a.off a.width)
    (hreach : reachesDmem c a.off a.width = false) : a.shared c = false :=
  (a.shared_eq_false_iff c).2 ⟨fun h => hreg h.1, hreach⟩

end stalling

section arriving

variable {s : State}

theorem State.arrive_held (hrst : s.rst = false) (hb : s.busy = true) {a : HostAccess} (ha : a.shared s.cfg = true) :
    s.arrive a = { s with held := s.held ++ [a] } := by
  simp [State.arrive, hrst, hb, ha]

theorem State.arrive_perform (hrst : s.rst = false) {a : HostAccess} (ha : s.busy = false ∨ a.shared s.cfg = false) :
    s.arrive a = s.perform a := by
  rcases ha with h | h <;> simp [State.arrive, hrst, h]

theorem State.arrive_read (hrst : s.rst = false) {off : Word} {w : Width}
    (ha : s.busy = false ∨ (HostAccess.read off w).shared s.cfg = false) :
    s.arrive (.read off w) = answered s off w (s.hostRead off.toNat w) :=
  State.arrive_perform hrst ha

theorem State.arrive_write (hrst : s.rst = false) {off : Word} {w : Width} {d : Word}
    (ha : s.busy = false ∨ (HostAccess.write off w d).shared s.cfg = false) :
    s.arrive (.write off w d) = s.hostWrite off.toNat w d :=
  State.arrive_perform hrst ha

theorem State.hostRead_reg (s : State) {off : Nat} (hreg : isRegAccess off .w32) :
    s.hostRead off .w32 = (s.readReg off).toNat := if_pos hreg

theorem State.hostWrite_reg (s : State) {off : Nat} (hreg : isRegAccess off .w32) (d : Word) :
    s.hostWrite off .w32 d = s.writeReg off d := if_pos hreg

/-- A read of a register that never stalls is answered with its value, during a run too (20_memory.md R68). -/
theorem State.arrive_read_reg (hrst : s.rst = false) {off value : Word} (hreg : isRegAccess off.toNat .w32)
    (hstall : ¬isStallingReg off.toNat) (hvalue : s.readReg off.toNat = value) :
    s.arrive (.read off .w32) = answered s off .w32 value.toNat := by
  rw [State.arrive_read hrst (.inr (HostAccess.not_shared_of_reg s.cfg hreg hstall)), s.hostRead_reg hreg, hvalue]

/-- The oldest held access is released as soon as the run is over (20_memory.md R68, log entry 9). -/
theorem State.release_held (hrst : s.rst = false) (hb : s.busy = false) {a : HostAccess} {rest : List HostAccess}
    (hh : s.held = a :: rest) : s.release = some (a, rest) := by
  simp [State.release, hrst, hb, hh]

end arriving

section registers

/-- A register write that is ignored: no half of X0 to X7, and none of CTRL, STATUS and PC (10_state.md R29, R38). -/
theorem State.writeReg_ignored (s : State) {off : Nat} (d : Word) (hx : ¬(0x40 ≤ off ∧ off < 0x80))
    (hctrl : off ≠ 0x10) (hstatus : off ≠ 0x14) (hpc : off ≠ 0x18) : s.writeReg off d = s := by
  unfold State.writeReg
  rw [if_neg hx]
  split
  · exact absurd rfl hctrl
  · exact absurd rfl hstatus
  · exact absurd rfl hpc
  · rfl

/-- An offset above FINST that is no half of X0 to X7 is occupied by no register (10_state.md R38). -/
theorem State.readReg_unoccupied (s : State) {off : Nat} (hlow : 0x28 ≤ off) (hx : ¬(0x40 ≤ off ∧ off < 0x80)) :
    s.readReg off = 0 := by
  unfold State.readReg
  rw [if_neg hx]
  split
  case h_11 => rfl
  all_goals omega

theorem State.ctrlWord_eq (s : State) : s.ctrlWord = if s.irqEn then 2 else 0 := by
  rw [State.ctrlWord]
  cases s.irqEn <;> rfl

theorem State.readReg_half (s : State) {k : Nat} (hk : k < 16) : s.readReg (0x40 + 4 * k) = s.xHalf k := by
  unfold State.readReg
  rw [if_pos (by omega), show (0x40 + 4 * k - 0x40) / 4 = k by omega]

theorem State.writeReg_half (s : State) {k : Nat} (hk : k < 16) (d : Word) :
    s.writeReg (0x40 + 4 * k) d = s.setXHalf k d := by
  unfold State.writeReg
  rw [if_pos (by omega), show (0x40 + 4 * k - 0x40) / 4 = k by omega]

/-- A 64-bit number joined from its halves. -/
theorem ofNat_join (hi lo : Word) : BitVec.ofNat 64 (hi.toNat * 2 ^ 32 + lo.toNat) = hi ++ lo := by
  have hlo := lo.isLt
  have hhi := hi.isLt
  refine BitVec.eq_of_toNat_eq ?_
  rw [BitVec.toNat_append, ← Nat.shiftLeft_add_eq_or_of_lt hlo, Nat.shiftLeft_eq, BitVec.toNat_ofNat]
  omega

theorem toNat_low (x : Scalar) : (x.extractLsb' 0 32).toNat = x.toNat % 2 ^ 32 := by
  rw [BitVec.extractLsb'_toNat, Nat.shiftRight_zero]

theorem toNat_high (x : Scalar) : (x.extractLsb' 32 32).toNat = x.toNat / 2 ^ 32 := by
  have hx := x.isLt
  rw [BitVec.extractLsb'_toNat, Nat.shiftRight_eq_div_pow]
  omega

/-- XiLO is bits 31:0 of X[i] (10_state.md R37). -/
theorem State.xHalf_low (s : State) (i : XIx) : s.xHalf (2 * i.val) = (s.x.get i).extractLsb' 0 32 := by
  refine BitVec.eq_of_toNat_eq ?_
  rw [State.xHalf, show 2 * i.val / 2 = i.val by omega, show 2 * i.val % 2 = 0 by omega, Fin.ofNat_val_eq_self, State.xNat,
    BitVec.toNat_ofNat, toNat_low, Nat.mul_zero, Nat.pow_zero, Nat.div_one]

/-- XiHI is bits 63:32 of X[i] (10_state.md R37). -/
theorem State.xHalf_high (s : State) (i : XIx) : s.xHalf (2 * i.val + 1) = (s.x.get i).extractLsb' 32 32 := by
  have hx := (s.x.get i).isLt
  refine BitVec.eq_of_toNat_eq ?_
  rw [State.xHalf, show (2 * i.val + 1) / 2 = i.val by omega, show (2 * i.val + 1) % 2 = 1 by omega, Fin.ofNat_val_eq_self,
    State.xNat, BitVec.toNat_ofNat, toNat_high]
  omega

/-- A write to XiLO leaves XiHI (10_state.md R37). -/
theorem State.setXHalf_low (s : State) (i : XIx) (d : Word) :
    s.setXHalf (2 * i.val) d = { s with x := s.x.set i ((s.x.get i).extractLsb' 32 32 ++ d) } := by
  rw [State.setXHalf, show 2 * i.val / 2 = i.val by omega, if_pos (by omega), Fin.ofNat_val_eq_self, State.xNat, ← toNat_high,
    State.setX, ofNat_join]

/-- A write to XiHI leaves XiLO (10_state.md R37). -/
theorem State.setXHalf_high (s : State) (i : XIx) (d : Word) :
    s.setXHalf (2 * i.val + 1) d = { s with x := s.x.set i (d ++ (s.x.get i).extractLsb' 0 32) } := by
  rw [State.setXHalf, show (2 * i.val + 1) / 2 = i.val by omega, if_neg (by omega), Fin.ofNat_val_eq_self, State.xNat,
    ← toNat_low, State.setX, ofNat_join]

end registers

section windows

/-- Bytes that fall on no byte of DMEM are ignored (20_memory.md R61). -/
theorem State.writeWindow_of_outside (s : State) (off : Nat) (bs : List Byte)
    (h : ∀ j < bs.length, ¬inDmemWindow s.cfg (off + j)) : s.writeWindow off bs = s := by
  induction bs generalizing off with
  | nil => rfl
  | cons b bs ih =>
    have hfirst : ¬inDmemWindow s.cfg off := h 0 (Nat.zero_lt_succ _)
    rw [State.writeWindow, if_neg hfirst]
    refine ih (off + 1) fun j hj => ?_
    rw [Nat.add_assoc, Nat.add_comm 1 j]
    exact h (j + 1) (Nat.succ_lt_succ hj)

/-- A write at a width of 20_memory.md R61 to no register stores its low bytes. -/
theorem State.hostWrite_onDmem (s : State) {off : Nat} {w : Width} (hreg : ¬isRegAccess off w) (hw : w.onDmem = true)
    (d : Word) : s.hostWrite off w d = s.writeWindow off ((u32Bytes d.toNat).take w.bytes) := by
  rw [State.hostWrite, if_neg hreg, if_pos hw]

/-- A write to no register and to no byte of DMEM is ignored (10_state.md R38, 20_memory.md R61). -/
theorem State.hostWrite_of_unreached (s : State) {off : Nat} {w : Width} (hreg : ¬isRegAccess off w)
    (hreach : reachesDmem s.cfg off w = false) (d : Word) : s.hostWrite off w d = s := by
  by_cases hw : w.onDmem = true
  · rw [s.hostWrite_onDmem hreg hw]
    refine s.writeWindow_of_outside off _ fun j hj => (reachesDmem_eq_false_iff ..).1 hreach j ?_
    exact hj.trans_le (List.length_take_le ..)
  · rw [State.hostWrite, if_neg hreg, if_neg hw]
    rcases s.writeOtherWidth_cases off w with ⟨-, he⟩ | ⟨-, -, h, -⟩
    · exact he
    · exact absurd (h.symm.trans hreach) (by decide)

/-- A read of no register is, byte by byte, the number of the bytes at its offsets (20_memory.md R63). -/
theorem State.hostRead_of_not_reg (s : State) {off : Nat} {w : Width} (hreg : ¬isRegAccess off w) :
    s.hostRead off w = Nat.ofDigits 256 ((List.range w.bytes).map fun j => (s.windowByte w (off + j)).toNat) := by
  rw [State.hostRead, if_neg hreg, leNat_eq_ofDigits, List.map_map]
  rfl

/-- A read of no register and of no byte of DMEM answers 0 (10_state.md R38, 20_memory.md R61). -/
theorem State.hostRead_of_unreached (s : State) {off : Nat} {w : Width} (hreg : ¬isRegAccess off w)
    (hreach : reachesDmem s.cfg off w = false) : s.hostRead off w = 0 := by
  have hzero : ∀ j ∈ List.range w.bytes, (s.windowByte w (off + j)).toNat = 0 := fun j hj => by
    rw [State.windowByte, if_neg ((reachesDmem_eq_false_iff ..).1 hreach j (List.mem_range.1 hj))]
    rfl
  rw [s.hostRead_of_not_reg hreg, List.map_congr_left hzero, List.map_const', Nat.ofDigits_replicate_zero]

/-- The bytes of a host word, lowest first (20_memory.md R63). -/
theorem getD_u32Bytes (d : Word) {k : Nat} (hk : k < 4) : (u32Bytes d.toNat).getD k 0 = d.extractLsb' (8 * k) 8 := by
  rw [BitVec.extractLsb', Nat.shiftRight_eq_div_pow]
  interval_cases k
  · rw [Nat.mul_zero, Nat.pow_zero, Nat.div_one]
    rfl
  all_goals rfl

theorem Width.bytes_le_of_onDmem {w : Width} (hw : w.onDmem = true) : w.bytes ≤ 4 := by
  cases w with
  | w8 | w16 | w24 | w32 => decide
  | wider => exact nomatch hw

theorem length_take_u32Bytes {n : Nat} (hn : n ≤ 4) (v : Nat) : ((u32Bytes v).take n).length = n :=
  (List.length_take ..).trans (Nat.min_eq_left hn)

theorem getD_take_u32Bytes (d : Word) {k n : Nat} (hk : k < n) (hn : n ≤ 4) :
    ((u32Bytes d.toNat).take n).getD k 0 = d.extractLsb' (8 * k) 8 := by
  rw [List.getD_eq_getElem?_getD, List.getElem?_take_of_lt hk, ← List.getD_eq_getElem?_getD,
    getD_u32Bytes d (hk.trans_le hn)]

theorem State.byteAt_hostWrite_onDmem (s : State) {off : Nat} {w : Width} (hreg : ¬isRegAccess off w)
    (hw : w.onDmem = true) (d : Word) (b : Nat) :
    (s.hostWrite off w d).byteAt b =
      if b < s.cfg.dmemBytes ∧ off ≤ 0x10000 + b ∧ 0x10000 + b < off + w.bytes then
        d.extractLsb' (8 * (0x10000 + b - off)) 8
      else s.byteAt b := by
  have hbytes := Width.bytes_le_of_onDmem hw
  rw [s.hostWrite_onDmem hreg hw, State.byteAt_writeWindow, length_take_u32Bytes hbytes, dmemBase]
  refine ite_congr rfl (fun hin => ?_) fun _ => rfl
  exact getD_take_u32Bytes d (by omega) hbytes

/-- What a read at a width of 20_memory.md R61 to no register answers: DMEM's bytes where the offsets are DMEM's, else 0. -/
theorem State.hostRead_onDmem (s : State) {off : Nat} {w : Width} (hreg : ¬isRegAccess off w) (hw : w.onDmem = true) :
    s.hostRead off w = Nat.ofDigits 256 ((List.range w.bytes).map fun j =>
      if 0x10000 ≤ off + j ∧ off + j < 0x10000 + s.cfg.dmemBytes then (s.byteAt (off + j - 0x10000)).toNat else 0) := by
  have hbyte : ∀ o, (s.windowByte w o).toNat =
      if 0x10000 ≤ o ∧ o < 0x10000 + s.cfg.dmemBytes then (s.byteAt (o - 0x10000)).toNat else 0 := fun o => by
    rw [State.windowByte, if_pos hw, apply_ite BitVec.toNat]
    rfl
  simp only [s.hostRead_of_not_reg hreg, hbyte]

end windows

section duringARun

/-- All that an access which a run does not hold can change, a CTRL write with SRST apart: IRQEN, DONE, FAULT and the answers
(20_memory.md R68). -/
theorem State.perform_during_run {s : State} {a : HostAccess} (hb : s.busy = true) (hshared : a.shared s.cfg = false)
    (hsrst : ∀ d : Word, d.getLsbD 2 = true → a ≠ .write 0x10 .w32 d) :
    ∃ irqEn done fault replies,
      s.perform a = { s with irqEn := irqEn, done := done, fault := fault, replies := replies } := by
  obtain ⟨hstall, hreach⟩ := (a.shared_eq_false_iff s.cfg).1 hshared
  cases a with
  | read off w => exact ⟨_, _, _, _, rfl⟩
  | write off w d =>
    by_cases hreg : isRegAccess off.toNat w
    case neg => exact ⟨_, _, _, _, s.hostWrite_of_unreached hreg hreach d⟩
    case pos =>
      obtain rfl : w = .w32 := hreg.2.1
      have hnot : ¬isStallingReg off.toNat := fun h => hstall ⟨hreg, h⟩
      simp only [State.perform, s.hostWrite_reg hreg]
      by_cases hctrl : off = 0x10
      · subst hctrl
        have hd : d.getLsbD 2 = false := Bool.eq_false_iff.2 fun h => hsrst d h rfl
        exact ⟨_, _, _, _, State.writeCtrl_enable hd (.inr hb)⟩
      by_cases hstatus : off = 0x14
      · subst hstatus
        exact ⟨_, _, _, _, rfl⟩
      · refine ⟨_, _, _, _, s.writeReg_ignored d (fun h => hnot (.inr h)) (fun h => hctrl ?_) (fun h => hstatus ?_)
          fun h => hnot (.inl h)⟩
        · exact BitVec.eq_of_toNat_eq h
        · exact BitVec.eq_of_toNat_eq h

/-- Settles O58: an access during a run is held, or else changes nothing that the run uses; and a held access comes first in a
step once it may complete. -/
theorem theHostCannotDisturbARun : Obligations.TheHostCannotDisturbARun := by
  intro s a hrst
  refine ⟨fun hb hsrst => ?_, fun hb ha => State.arrive_held hrst hb ha, fun hb rest hh => ?_⟩
  · cases ha : a.shared s.cfg with
    | true =>
      rw [State.arrive_held hrst hb ha]
      exact ⟨rfl, rfl, rfl, rfl, hb⟩
    | false =>
      obtain ⟨irqEn, done, fault, replies, he⟩ := State.perform_during_run hb ha hsrst
      rw [State.arrive_perform hrst (.inr ha), he]
      exact ⟨rfl, rfl, rfl, rfl, hb⟩
  · simp only [step, blockStep, State.release_held hrst hb hh]

end duringARun

section windowClaims

variable {s : State}

theorem readsAreAnswered (hrst : s.rst = false) : ReadsAreAnswered s := fun _ _ ha => State.arrive_read hrst ha

/-- A write to a register that never stalls, CTRL and STATUS apart, is ignored (10_state.md R38). -/
theorem State.arrive_write_ignored (hrst : s.rst = false) {off : Word} (hreg : isRegAccess off.toNat .w32)
    (hstall : ¬isStallingReg off.toNat) (hctrl : off.toNat ≠ 0x10) (hstatus : off.toNat ≠ 0x14) (d : Word) :
    s.arrive (.write off .w32 d) = s := by
  rw [State.arrive_write_reg hrst hreg hstall]
  exact s.writeReg_ignored d (fun h => hstall (.inr h)) hctrl hstatus fun h => hstall (.inl h)

theorem neverStallingRegisters (hrst : s.rst = false) : NeverStallingRegisters s := by
  constructor
  · simp only [List.forall_mem_cons, List.not_mem_nil, false_imp_iff, implies_true, and_true]
    refine ⟨?_, ?_, ?_, ?_, ?_, ?_, ?_, ?_, ?_⟩ <;> refine State.arrive_read_reg hrst (by decide) (by decide) ?_
    case refine_2 => exact paramsWord_eq s.cfg
    case refine_5 => exact s.ctrlWord_eq
    all_goals rfl
  · simp only [List.forall_mem_cons, List.not_mem_nil, false_imp_iff, implies_true, and_true]
    refine ⟨?_, ?_, ?_, ?_, ?_, ?_, ?_⟩ <;>
      exact State.arrive_write_ignored hrst (by decide) (by decide) (by decide) (by decide)

theorem stalledBehindTheRun (hrst : s.rst = false) : StalledBehindTheRun s := by
  intro off d w hb hoff
  have hshared : (isRegAccess off.toNat w ∧ isStallingReg off.toNat) ∨ reachesDmem s.cfg off.toNat w = true := by
    rw [reachesDmem_iff]
    rcases hoff with ⟨rfl, hoff⟩ | hin | ⟨hlow, hhigh, hpos⟩
    · exact .inl ⟨(isRegAccess_iff ..).2 ⟨by omega, rfl, by omega⟩, by omega⟩
    · exact .inr ⟨0, w.bytes_pos, hin⟩
    · exact .inr ⟨0x10000 - off.toNat, by omega, (inDmemWindow_iff ..).2 (by omega)⟩
  exact ⟨State.arrive_held hrst hb ((HostAccess.shared_iff ..).2 hshared),
    State.arrive_held hrst hb ((HostAccess.shared_iff ..).2 hshared)⟩

/-- An access to no register and to no byte of DMEM, at any time. -/
theorem State.arrive_unreached (hrst : s.rst = false) {off : Word} {w : Width} (hreg : ¬isRegAccess off.toNat w)
    (hreach : reachesDmem s.cfg off.toNat w = false) (d : Word) :
    s.arrive (.read off w) = answered s off w 0 ∧ s.arrive (.write off w d) = s := by
  constructor
  · rw [State.arrive_read hrst (.inr (HostAccess.not_shared_of_unreached s.cfg hreg hreach)),
      s.hostRead_of_unreached hreg hreach]
  · rw [State.arrive_write hrst (.inr (HostAccess.not_shared_of_unreached s.cfg hreg hreach)),
      s.hostWrite_of_unreached hreg hreach]

/-- An access to an offset that no register occupies, at any time (10_state.md R38). -/
theorem State.arrive_unoccupied (hrst : s.rst = false) {off : Word} (hreg : isRegAccess off.toNat .w32)
    (hlow : 0x28 ≤ off.toNat) (hx : ¬(0x40 ≤ off.toNat ∧ off.toNat < 0x80)) (d : Word) :
    s.arrive (.read off .w32) = answered s off .w32 0 ∧ s.arrive (.write off .w32 d) = s := by
  have hstall : ¬isStallingReg off.toNat := by
    rintro (h | h)
    · omega
    · exact hx h
  exact ⟨State.arrive_read_reg hrst hreg hstall (s.readReg_unoccupied hlow hx),
    State.arrive_write_ignored hrst hreg hstall (by omega) (by omega) d⟩

theorem nothingElseInTheWindows (hrst : s.rst = false) : NothingElseInTheWindows s := by
  rintro off d w (⟨rfl, halign, hlow, hhigh, hx⟩ | ⟨hend, hno⟩ | hpast)
  · exact State.arrive_unoccupied hrst ⟨hhigh, rfl, halign⟩ hlow (by omega) d
  · refine State.arrive_unreached hrst (fun h => hno h.2) ((reachesDmem_eq_false_iff ..).2 fun j hj => ?_) d
    rw [inDmemWindow_iff]
    omega
  · have hreg : ¬isRegAccess off.toNat w := fun ⟨hlt, _⟩ => absurd hlt (by rw [dmemBase]; omega)
    refine State.arrive_unreached hrst hreg ((reachesDmem_eq_false_iff ..).2 fun j hj => ?_) d
    rw [inDmemWindow_iff]
    omega

/-- The register of half `k` of X0 to X7, while the engine is idle (10_state.md R37). -/
theorem State.arrive_half (hrst : s.rst = false) (hb : s.busy = false) {off : Word} {k : Nat} (hk : k < 16)
    (hoff : off.toNat = 0x40 + 4 * k) (d : Word) :
    s.arrive (.read off .w32) = answered s off .w32 (s.xHalf k).toNat ∧
      s.arrive (.write off .w32 d) = s.setXHalf k d := by
  have hreg : isRegAccess off.toNat .w32 := (isRegAccess_iff ..).2 ⟨by omega, rfl, by omega⟩
  constructor
  · rw [State.arrive_read hrst (.inl hb), s.hostRead_reg hreg, hoff, s.readReg_half hk]
  · rw [State.arrive_write hrst (.inl hb), s.hostWrite_reg hreg, hoff, s.writeReg_half hk]

theorem pcAndScalarRegisters (hrst : s.rst = false) (hb : s.busy = false) : PcAndScalarRegisters s := by
  intro d
  refine ⟨State.arrive_read hrst (.inl hb), State.arrive_write hrst (.inl hb), ?_⟩
  intro i lo hi
  have hlo : lo.toNat = 0x40 + 4 * (2 * i.val) := by
    rw [BitVec.toNat_ofNat]
    omega
  have hhi : hi.toNat = 0x40 + 4 * (2 * i.val + 1) := by
    rw [BitVec.toNat_ofNat]
    omega
  obtain ⟨hreadLo, hwriteLo⟩ := State.arrive_half hrst hb (by omega) hlo d
  obtain ⟨hreadHi, hwriteHi⟩ := State.arrive_half hrst hb (by omega) hhi d
  rw [hreadLo, hreadHi, hwriteLo, hwriteHi, s.xHalf_low, s.xHalf_high, s.setXHalf_low, s.setXHalf_high]
  exact ⟨rfl, rfl, rfl, rfl⟩

/-- The three widths of 20_memory.md R61 and their numbers of bytes. -/
theorem onDmem_of_mem {p : Width × Nat} (hp : p ∈ [(Width.w8, 1), (Width.w16, 2), (Width.w32, 4)]) :
    p.1.onDmem = true ∧ p.1.bytes = p.2 := by
  revert p
  decide

theorem bytewiseAccesses (hrst : s.rst = false) (hb : s.busy = false) : BytewiseAccesses s := by
  intro p hp off d hno
  obtain ⟨hw, hbytes⟩ := onDmem_of_mem hp
  have hreg : ¬isRegAccess off.toNat p.1 := fun ⟨hlt, hw32, halign⟩ => hno ⟨hw32, halign, hlt⟩
  rw [State.arrive_read hrst (.inl hb), State.arrive_write hrst (.inl hb), ← hbytes, s.hostRead_onDmem hreg hw]
  refine ⟨rfl, _, rfl, ?_, s.byteAt_hostWrite_onDmem hreg hw d⟩
  rw [s.hostWrite_onDmem hreg hw]
  exact s.writeWindow_eq ..

/-- An access inside DMEM is the bytewise access with every byte in DMEM; a write of any width stays in its range. -/
theorem dmemWindow (hrst : s.rst = false) (hb : s.busy = false) : DmemWindow s := by
  refine ⟨fun p hp a off d hend hoff => ?_, fun w off d hlow => ?_⟩
  · obtain ⟨hread, t, harrive, hmem, hbyte⟩ := bytewiseAccesses hrst hb p hp off d (by omega)
    refine ⟨hread.trans ?_, t, harrive, hmem, fun b => (hbyte b).trans ?_⟩
    · congr 2
      refine List.map_congr_left fun j hj => ?_
      have hj := List.mem_range.1 hj
      rw [if_pos (by omega), hoff, show 0x10000 + a + j - 0x10000 = a + j by omega]
    · rw [hoff, show 0x10000 + b - (0x10000 + a) = b - a by omega]
      exact ite_congr (propext (by omega)) (fun _ => rfl) fun _ => rfl
  · have hreg : ¬isRegAccess off.toNat w := fun h => absurd h.1 (Nat.not_lt.2 hlow)
    rw [State.arrive_write hrst (.inl hb)]
    exact ⟨_, rfl, s.hostWrite_eq_of_not_reg d hreg, fun b hout => s.byteAt_hostWrite_of_outside d hreg hout⟩

end windowClaims

/-- Settles O59, window by window: an access is to a register, or it goes byte by byte and reaches DMEM or nothing. -/
theorem theHostReachesDmemAndX : Obligations.TheHostReachesDmemAndX := fun _ hrst =>
  ⟨readsAreAnswered hrst, neverStallingRegisters hrst, stalledBehindTheRun hrst, nothingElseInTheWindows hrst,
    fun hb => ⟨pcAndScalarRegisters hrst hb, dmemWindow hrst hb, bytewiseAccesses hrst hb⟩⟩

end Sys2Proof.Machine
end

section
/-! SUPPORT. The fields of a command word (30_encoding.md R81 to R84): a word holds the packed fields exactly where its fields
are those, and the operand slots of format L are a number in base 8. -/

namespace Sys2Proof

section fields

variable {w : Word} {op : Nat}

theorem val_regField (w : Word) (lo : Nat) : (regField w lo).val = w.toNat / 2 ^ lo % 8 := by
  simp only [regField, field, Fin.val_ofNat]
  omega

/-- The bits from `lo` up are the register field at `lo` and the bits above it. -/
theorem field_eq_zero_iff_regField (w : Word) (lo width : Nat) :
    field w lo (3 + width) = 0 ↔ regField w lo = 0 ∧ field w (lo + 3) width = 0 := by
  have hreg : regField w lo = 0 ↔ w.toNat / 2 ^ lo % 2 ^ 3 = 0 := by
    rw [Fin.ext_iff, val_regField]
    rfl
  rw [hreg, field, field, pow_add 2 lo, ← Nat.div_div_eq_div_mul, pow_add 2 3, Nat.mod_mul]
  generalize w.toNat / 2 ^ lo % 2 ^ 3 = low, w.toNat / 2 ^ lo / 2 ^ 3 % 2 ^ width = high
  omega

/-- Format XI, field by field (30_encoding.md R82). -/
theorem toNat_eq_packXI_iff (hop : field w 0 8 = op) {rd : XIx} {imm : BitVec 16} :
    w.toNat = packXI op rd imm ↔
      field w 11 5 = 0 ∧ regField w 8 = rd ∧ BitVec.ofNat 16 (field w 16 16) = imm := by
  have := w.isLt
  have := rd.isLt
  have := imm.isLt
  simp only [Fin.ext_iff, val_regField, ← BitVec.toNat_inj, BitVec.toNat_ofNat, packXI]
  simp only [field] at hop ⊢
  omega

/-- Format R, field by field (30_encoding.md R83). -/
theorem toNat_eq_packR_iff (hop : field w 0 8 = op) {rd ra rb rc : Fin 8} :
    w.toNat = packR op rd ra rb rc ↔
      regField w 8 = rd ∧ regField w 11 = ra ∧ regField w 14 = rb ∧ regField w 17 = rc ∧ field w 20 12 = 0 := by
  have := w.isLt
  have := rd.isLt
  have := ra.isLt
  have := rb.isLt
  have := rc.isLt
  simp only [Fin.ext_iff, val_regField, packR]
  simp only [field] at hop ⊢
  omega

end fields

section slots

/-- The operand slots are the digits of a number in base 8. -/
theorem packSlots_eq_ofDigits (ops : List VIx) : packSlots ops = Nat.ofDigits 8 (ops.map Fin.val) := by
  induction ops with
  | nil => rfl
  | cons r ops ih => rw [List.map_cons, Nat.ofDigits_cons, ← ih]; rfl

theorem packSlots_append (ops rest : List VIx) :
    packSlots (ops ++ rest) = packSlots ops + 8 ^ ops.length * packSlots rest := by
  simp only [packSlots_eq_ofDigits, List.map_append, Nat.ofDigits_append, List.length_map]

theorem packSlots_inj {ops ops' : List VIx} (hl : ops.length = ops'.length) (h : packSlots ops = packSlots ops') :
    ops = ops' := by
  have hdigit : ∀ l : List VIx, ∀ d ∈ l.map Fin.val, d < 8 := fun l d hd => by
    obtain ⟨r, -, rfl⟩ := List.mem_map.1 hd
    exact r.isLt
  rw [packSlots_eq_ofDigits, packSlots_eq_ofDigits] at h
  exact List.map_injective_iff.2 Fin.val_injective
    (Nat.ofDigits_inj_of_len_eq (by decide) (by simpa using hl) (hdigit _) (hdigit _) h)

theorem packSlots_eq_zero_iff (ops : List VIx) : packSlots ops = 0 ↔ ops.all (· == 0) = true := by
  induction ops with
  | nil => simp [packSlots]
  | cons r ops ih =>
    have hcons : packSlots (r :: ops) = r.val + 8 * packSlots ops := rfl
    rw [List.all_cons, Bool.and_eq_true, ← ih, hcons, beq_iff_eq, Fin.ext_iff, Fin.val_zero]
    omega

/-- The slots fill the word from bit 14 up (30_encoding.md R84). -/
theorem packSlots_slots (w : Word) : packSlots (slots w) = w.toNat / 2 ^ 14 := by
  have := w.isLt
  simp only [slots, packSlots, List.foldr_cons, List.foldr_nil, val_regField]
  omega

/-- The first `n` slots and the others, as numbers. -/
theorem packSlots_take_add_drop (w : Word) {n : Nat} (hn : n ≤ 6) :
    packSlots ((slots w).take n) + 8 ^ n * packSlots ((slots w).drop n) = w.toNat / 2 ^ 14 := by
  have happend := packSlots_append ((slots w).take n) ((slots w).drop n)
  rwa [List.take_append_drop, packSlots_slots, List.length_take_of_le hn, eq_comm] at happend

/-- The slots from `n` on are all 0 exactly where nothing stands from bit 14 + 3n up (30_encoding.md R84, R88). -/
theorem drop_slots_all_zero_iff (w : Word) {n : Nat} (hn : n ≤ 6) :
    ((slots w).drop n).all (· == 0) = true ↔ w.toNat / 2 ^ (14 + 3 * n) = 0 := by
  have hlt := Laws.packSlots_lt ((slots w).take n)
  rw [List.length_take_of_le hn] at hlt
  have hdrop : w.toNat / 2 ^ (14 + 3 * n) = packSlots ((slots w).drop n) := by
    rw [pow_add, pow_mul, ← Nat.div_div_eq_div_mul, ← packSlots_take_add_drop w hn, show 2 ^ 3 = 8 from rfl,
      Nat.add_mul_div_left _ _ (by positivity), Nat.div_eq_of_lt hlt, Nat.zero_add]
  rw [hdrop, packSlots_eq_zero_iff]

/-- The first slots are the operands, and the unused ones 0, exactly where the word holds the packed operands. -/
theorem slots_eq_iff (w : Word) {ops : List VIx} (hn : ops.length ≤ 6) :
    ((slots w).drop ops.length).all (· == 0) = true ∧ (slots w).take ops.length = ops ↔
      w.toNat / 2 ^ 14 = packSlots ops := by
  have hparts := packSlots_take_add_drop w hn
  rw [← packSlots_eq_zero_iff]
  have hlen : ((slots w).take ops.length).length = ops.length := List.length_take_of_le hn
  constructor
  · rintro ⟨hzero, htake⟩
    rw [← hparts, hzero, htake, Nat.mul_zero, Nat.add_zero]
  · intro h
    have hlt := Laws.packSlots_lt ((slots w).take ops.length)
    have hlt' := Laws.packSlots_lt ops
    rw [hlen] at hlt
    rw [← hparts] at h
    have hmod := congrArg (· % 8 ^ ops.length) h
    simp only [Nat.add_mul_mod_self_left, Nat.mod_eq_of_lt hlt, Nat.mod_eq_of_lt hlt'] at hmod
    refine ⟨?_, packSlots_inj hlen hmod⟩
    rw [hmod, Nat.add_eq_left, mul_eq_zero] at h
    exact h.resolve_left (by positivity)

/-- Format L, field by field (30_encoding.md R84). -/
theorem toNat_eq_packL_iff {w : Word} {op : Nat} (hop : field w 0 8 = op) {rd : VIx} {ops : List VIx}
    (hn : ops.length ≤ 6) :
    w.toNat = packL op rd ops ↔
      field w 11 3 = ops.length ∧ ((slots w).drop ops.length).all (· == 0) = true ∧ regField w 8 = rd ∧
        (slots w).take ops.length = ops := by
  have hfields : w.toNat = packL op rd ops ↔
      field w 11 3 = ops.length ∧ regField w 8 = rd ∧ w.toNat / 2 ^ 14 = packSlots ops := by
    have := rd.isLt
    simp only [Fin.ext_iff, val_regField, packL]
    simp only [field] at hop ⊢
    omega
  rw [hfields, ← slots_eq_iff w hn]
  tauto

end slots

end Sys2Proof
end

section
/-! SUPPORT. The opcode map of 30_encoding.md R87 as data: opcodes with the format that reads a word and the command that the
fields make. What a format reads from a word is said once for each format, and what decodes is read off that. -/

namespace Sys2Proof

section formats

/-- A format of 30_encoding.md R81 to R84 with the command that its fields make. Format R stands four times, for the
commands that use one to four of its registers. -/
inductive OpcodeFormat where
  | n (i : Instr)
  | xi (mk : XIx → BitVec 16 → Instr)
  | r1 (mk : Fin 8 → Instr)
  | r2 (mk : Fin 8 → Fin 8 → Instr)
  | r3 (mk : Fin 8 → Fin 8 → Fin 8 → Instr)
  | r4 (mk : Fin 8 → Fin 8 → Fin 8 → Fin 8 → Instr)
  | l (mk : VIx → List VIx → Instr)

/-- What the decoder does with a word of this format (`decode_eq_read` ties it to `decode`). -/
def OpcodeFormat.read (w : Word) : OpcodeFormat → Except DecodeError Instr
  | .n i => formatN w i
  | .xi mk => formatXI w mk
  | .r1 mk => formatR1 w mk
  | .r2 mk => formatR2 w mk
  | .r3 mk => formatR3 w mk
  | .r4 mk => formatR4 w mk
  | .l mk => formatL w mk

/-- `i` is a command of this format, and `m` its number with the opcode `op` (`exists_packs_iff` ties it to `encodeNat`). -/
def OpcodeFormat.Packs (op : Nat) (i : Instr) (m : Nat) : OpcodeFormat → Prop
  | .n j => j = i ∧ m = packN op
  | .xi mk => ∃ rd imm, mk rd imm = i ∧ m = packXI op rd imm
  | .r1 mk => ∃ rd, mk rd = i ∧ m = packR op rd 0 0 0
  | .r2 mk => ∃ rd ra, mk rd ra = i ∧ m = packR op rd ra 0 0
  | .r3 mk => ∃ rd ra rb, mk rd ra rb = i ∧ m = packR op rd ra rb 0
  | .r4 mk => ∃ rd ra rb rc, mk rd ra rb rc = i ∧ m = packR op rd ra rb rc
  | .l mk => ∃ rd ops, Instr.legalOps ops = true ∧ mk rd ops = i ∧ m = packL op rd ops

/-- The "must be 0" field of a format other than L, its lowest bit and its width (30_encoding.md R81 to R83, R88). -/
def OpcodeFormat.zeroField : OpcodeFormat → Option (Nat × Nat)
  | .n _ => some (8, 24)
  | .xi _ => some (11, 5)
  | .r1 _ => some (11, 21)
  | .r2 _ => some (14, 18)
  | .r3 _ => some (17, 15)
  | .r4 _ => some (20, 12)
  | .l _ => none

theorem zeroAbove_eq_ok_iff {w : Word} {lo : Nat} {i j : Instr} :
    zeroAbove w lo i = .ok j ↔ field w lo (32 - lo) = 0 ∧ i = j := by
  unfold zeroAbove
  split <;> simp [*]

theorem formatXI_eq_ok_iff {w : Word} {mk : XIx → BitVec 16 → Instr} {i : Instr} :
    formatXI w mk = .ok i ↔
      field w 11 5 = 0 ∧ mk (regField w 8) (BitVec.ofNat 16 (field w 16 16)) = i := by
  unfold formatXI
  split <;> simp [*]

/-- Format L reads a word of 1 to 6 operands whose unused slots are 0 (30_encoding.md R84, R88). -/
theorem formatL_eq_ok_iff {w : Word} {mk : VIx → List VIx → Instr} {i : Instr} :
    formatL w mk = .ok i ↔
      (1 ≤ field w 11 3 ∧ field w 11 3 ≤ 6) ∧ ((slots w).drop (field w 11 3)).all (· == 0) = true ∧
        mk (regField w 8) ((slots w).take (field w 11 3)) = i := by
  have hlt : field w 11 3 < 8 := Nat.mod_lt _ (by decide)
  have hcount : (1 ≤ field w 11 3 ∧ field w 11 3 ≤ 6) ↔ ¬(field w 11 3 = 0 ∨ field w 11 3 = 7) := by omega
  rw [hcount]
  simp only [formatL]
  split
  · simp [*]
  · split <;> simp [*]

/-- A word of the opcode `op` reads as exactly the command whose fields it packs. -/
theorem OpcodeFormat.read_eq_ok_iff {w : Word} {op : Nat} (hop : field w 0 8 = op) (f : OpcodeFormat) (i : Instr) :
    f.read w = .ok i ↔ f.Packs op i w.toNat := by
  have hrc : field w 17 15 = 0 ↔ _ := field_eq_zero_iff_regField w 17 12
  have hrb : field w 14 18 = 0 ↔ _ := field_eq_zero_iff_regField w 14 15
  have hra : field w 11 21 = 0 ↔ _ := field_eq_zero_iff_regField w 11 18
  cases f with
  | n j =>
    have hword : w.toNat = packN op ↔ field w 8 24 = 0 := by
      have := w.isLt
      simp only [field, packN] at hop ⊢
      omega
    simp only [read, Packs, formatN, zeroAbove_eq_ok_iff, hword, and_comm]
  | xi mk =>
    simp only [read, Packs, formatXI_eq_ok_iff, toNat_eq_packXI_iff hop]
    exact ⟨fun ⟨hz, hi⟩ => ⟨_, _, hi, hz, rfl, rfl⟩, fun ⟨_, _, hi, hz, rfl, rfl⟩ => ⟨hz, hi⟩⟩
  | r1 mk =>
    simp only [read, Packs, formatR1, zeroAbove_eq_ok_iff, toNat_eq_packR_iff hop, hra, hrb, hrc]
    exact ⟨fun ⟨hz, hi⟩ => ⟨_, hi, rfl, hz⟩, fun ⟨_, hi, rfl, hz⟩ => ⟨hz, hi⟩⟩
  | r2 mk =>
    simp only [read, Packs, formatR2, zeroAbove_eq_ok_iff, toNat_eq_packR_iff hop, hrb, hrc]
    exact ⟨fun ⟨hz, hi⟩ => ⟨_, _, hi, rfl, rfl, hz⟩, fun ⟨_, _, hi, rfl, rfl, hz⟩ => ⟨hz, hi⟩⟩
  | r3 mk =>
    simp only [read, Packs, formatR3, zeroAbove_eq_ok_iff, toNat_eq_packR_iff hop, hrc]
    exact ⟨fun ⟨hz, hi⟩ => ⟨_, _, _, hi, rfl, rfl, rfl, hz⟩, fun ⟨_, _, _, hi, rfl, rfl, rfl, hz⟩ => ⟨hz, hi⟩⟩
  | r4 mk =>
    simp only [read, Packs, formatR4, zeroAbove_eq_ok_iff, toNat_eq_packR_iff hop]
    exact ⟨fun ⟨hz, hi⟩ => ⟨_, _, _, _, hi, rfl, rfl, rfl, rfl, hz⟩, fun ⟨_, _, _, _, hi, rfl, rfl, rfl, rfl, hz⟩ => ⟨hz, hi⟩⟩
  | l mk =>
    simp only [read, Packs, formatL_eq_ok_iff]
    constructor
    · rintro ⟨hn, hzero, rfl⟩
      have hlen : ((slots w).take (field w 11 3)).length = field w 11 3 := List.length_take_of_le hn.2
      refine ⟨_, _, (Laws.legalOps_iff _).2 (hlen.symm ▸ hn), rfl, ?_⟩
      rw [toNat_eq_packL_iff hop (hlen.symm ▸ hn.2), hlen]
      exact ⟨rfl, hzero, rfl, rfl⟩
    · rintro ⟨rd, ops, hops, rfl, hm⟩
      rw [Laws.legalOps_iff] at hops
      obtain ⟨hn, hzero, rfl, htake⟩ := (toNat_eq_packL_iff hop hops.2).1 hm
      rw [hn, htake]
      exact ⟨hops, hzero, rfl⟩

/-- A command of the opcode `op` has it in bits 7:0. -/
theorem OpcodeFormat.Packs.field_opcode {w : Word} {op : Nat} {i : Instr} {f : OpcodeFormat} (hop : op < 2 ^ 8)
    (h : f.Packs op i w.toNat) : field w 0 8 = op := by
  have hmod : w.toNat % 2 ^ 8 = op := by
    cases f with
    | n => obtain ⟨-, hm⟩ := h; rw [hm, packN]; omega
    | xi => obtain ⟨rd, imm, -, hm⟩ := h; rw [hm, packXI]; omega
    | r1 => obtain ⟨rd, -, hm⟩ := h; rw [hm, packR]; omega
    | r2 => obtain ⟨rd, ra, -, hm⟩ := h; rw [hm, packR]; omega
    | r3 => obtain ⟨rd, ra, rb, -, hm⟩ := h; rw [hm, packR]; omega
    | r4 => obtain ⟨rd, ra, rb, rc, -, hm⟩ := h; rw [hm, packR]; omega
    | l => obtain ⟨rd, ops, -, -, hm⟩ := h; rw [hm, packL]; omega
  rw [field, pow_zero, Nat.div_one, hmod]

end formats

section opcodeMap

/-- The opcode map (30_encoding.md R87). -/
def opcodeMap : List (Nat × OpcodeFormat) :=
  [(0x01, .n .halt), (0x02, .n .nop), (0x08, .xi .li), (0x09, .xi .lis),
   (0x10, .r2 .fill), (0x11, .r3 .set), (0x12, .r2 .setv), (0x13, .r3 .get), (0x14, .r1 .clr), (0x15, .r2 .clone),
   (0x16, .r3 .eq), (0x17, .r2 .push), (0x18, .r2 .pop), (0x19, .r1 .brev), (0x1A, .r3 .idxof), (0x1B, .r4 .slice),
   (0x1C, .r2 .len), (0x1D, .r2 .sflr),
   (0x20, .r1 .new), (0x21, .r3 .fbin), (0x22, .r2 .fnum), (0x23, .r2 .fnumo), (0x24, .r3 .ldbits), (0x25, .r3 .fints),
   (0x26, .r2 .octet), (0x27, .r3 .foff), (0x28, .r3 .fdec), (0x29, .r3 .fhex), (0x2A, .r2 .fhexn), (0x2B, .r3 .fbytes),
   (0x30, .r3 .tooff), (0x31, .r3 .tobytes), (0x32, .r2 .tonum), (0x33, .r3 .tohex), (0x34, .r3 .tostr),
   (0x35, .r3 .tobits),
   (0x40, .l .and), (0x41, .l .or), (0x42, .l .xor), (0x43, .r2 .not),
   (0x48, .r2 .popc32), (0x49, .r2 .popcv), (0x4A, .r3 .popcb)]

theorem opcode_lt {r : Nat × OpcodeFormat} (hr : r ∈ opcodeMap) : r.1 < 2 ^ 8 := by
  have hall : ∀ op ∈ opcodeMap.map Prod.fst, op < 2 ^ 8 := by decide
  exact hall r.1 (List.mem_map_of_mem hr)

theorem decode_eq_read {w : Word} : ∀ r ∈ opcodeMap, field w 0 8 = r.1 → decode w = r.2.read w := by
  simp only [opcodeMap, List.forall_mem_cons]
  exact ⟨decode_halt, decode_nop, decode_li, decode_lis, decode_fill, decode_set, decode_setv, decode_get, decode_clr,
    decode_clone, decode_eq, decode_push, decode_pop, decode_brev, decode_idxof, decode_slice, decode_len, decode_sflr,
    decode_new, decode_fbin, decode_fnum, decode_fnumo, decode_ldbits, decode_fints, decode_octet, decode_foff,
    decode_fdec, decode_fhex, decode_fhexn, decode_fbytes, decode_tooff, decode_tobytes, decode_tonum, decode_tohex,
    decode_tostr, decode_tobits, decode_and, decode_or, decode_xor, decode_not, decode_popc32, decode_popcv,
    decode_popcb, List.forall_mem_nil _⟩

/-- An opcode that the map does not hold is no command (30_encoding.md R88). -/
theorem opcode_mem_of_decode {w : Word} {i : Instr} (h : decode w = .ok i) :
    field w 0 8 ∈ opcodeMap.map Prod.fst := by
  unfold decode at h
  split at h
  case h_44 => cases h
  all_goals
    rename_i hop
    rw [hop]
    decide

/-- A word decodes to what the row of its opcode reads from it. -/
theorem decode_eq_ok_iff_read {w : Word} {i : Instr} :
    decode w = .ok i ↔ ∃ r ∈ opcodeMap, field w 0 8 = r.1 ∧ r.2.read w = .ok i := by
  constructor
  · intro h
    obtain ⟨r, hr, hop⟩ := List.mem_map.1 (opcode_mem_of_decode h)
    exact ⟨r, hr, hop.symm, decode_eq_read r hr hop.symm ▸ h⟩
  · rintro ⟨r, hr, hop, h⟩
    exact (decode_eq_read r hr hop).trans h

/-- The encoder follows the map: the commands that its rows pack, and into which number, are the well-formed ones and their
encodings. -/
theorem exists_packs_iff {i : Instr} {m : Nat} :
    (∃ r ∈ opcodeMap, r.2.Packs r.1 i m) ↔ i.wellFormed = true ∧ m = encodeNat i := by
  simp only [opcodeMap, List.exists_mem_cons_iff, List.not_mem_nil, false_and, exists_false, or_false, OpcodeFormat.Packs]
  -- The constructor of the command leaves one row of the map, and its operands that row's fields.
  cases i <;> simp [Instr.wellFormed, encodeNat]

/-- The decoder reads a word as a command exactly where the command is well-formed and the word holds its encoding. -/
theorem decode_eq_ok_iff {w : Word} {i : Instr} :
    decode w = .ok i ↔ i.wellFormed = true ∧ w.toNat = encodeNat i := by
  rw [decode_eq_ok_iff_read, ← exists_packs_iff]
  constructor
  · rintro ⟨r, hr, hop, h⟩
    exact ⟨r, hr, (r.2.read_eq_ok_iff hop i).1 h⟩
  · rintro ⟨r, hr, h⟩
    have hop := h.field_opcode (opcode_lt hr)
    exact ⟨r, hr, hop, (r.2.read_eq_ok_iff hop i).2 h⟩

end opcodeMap

end Sys2Proof
end

section
/-! The statements about the encoding: the round trips between words and commands (30_encoding.md R80, R89), and the legal
words (30_encoding.md R88). -/

namespace Sys2Proof

section roundTrips

theorem OpcodeFormat.Packs.lt {op m : Nat} {i : Instr} {f : OpcodeFormat} (hop : op < 2 ^ 8) (h : f.Packs op i m) :
    m < 2 ^ 32 := by
  cases f with
  | n => exact h.2 ▸ hop.trans (by decide)
  | xi => obtain ⟨rd, imm, -, rfl⟩ := h; exact Laws.packXI_lt hop ..
  | r1 => obtain ⟨rd, -, rfl⟩ := h; exact Laws.packR_lt hop ..
  | r2 => obtain ⟨rd, ra, -, rfl⟩ := h; exact Laws.packR_lt hop ..
  | r3 => obtain ⟨rd, ra, rb, -, rfl⟩ := h; exact Laws.packR_lt hop ..
  | r4 => obtain ⟨rd, ra, rb, rc, -, rfl⟩ := h; exact Laws.packR_lt hop ..
  | l => obtain ⟨rd, ops, hops, -, rfl⟩ := h; exact Laws.packL_lt hop rd hops

/-- No bit of an encoding is lost in the command word (30_encoding.md R80). -/
theorem toNat_encode {i : Instr} (h : i.wellFormed = true) : (encode i).toNat = encodeNat i := by
  obtain ⟨r, hr, hp⟩ := exists_packs_iff.2 ⟨h, rfl⟩
  exact BitVec.toNat_ofNat .. |>.trans (Nat.mod_eq_of_lt (hp.lt (opcode_lt hr)))

theorem decode_encode {i : Instr} (h : i.wellFormed = true) : decode (encode i) = .ok i :=
  decode_eq_ok_iff.2 ⟨h, toNat_encode h⟩

/-- The four bytes of a word, lowest address first, are its value (20_memory.md R62, R63). -/
theorem ofNat_leNat_u32Bytes (w : Word) : BitVec.ofNat 32 (leNat (u32Bytes w.toNat)) = w := by
  have := w.isLt
  simp only [← BitVec.toNat_inj, leNat, u32Bytes, List.foldr_cons, List.foldr_nil, BitVec.toNat_ofNat]
  omega

theorem decodeBytes_u32Bytes {w : Word} {i : Instr} (h : decode w = .ok i) (rest : List Byte) :
    decodeBytes (u32Bytes w.toNat ++ rest) = .ok (i, rest) := by
  have hw : decode (BitVec.ofNat 32 (leNat (u32Bytes w.toNat))) = .ok i := by rwa [ofNat_leNat_u32Bytes]
  simp only [u32Bytes] at hw
  simp only [u32Bytes, List.cons_append, List.nil_append, decodeBytes, hw]

/-- Settles O43: an encoding packs the command into the row of its opcode, and that row reads it back. -/
theorem decodeOfEncodeIsTheCommand : Obligations.DecodeOfEncodeIsTheCommand := fun _ h =>
  ⟨decode_encode h, decodeBytes_u32Bytes (decode_encode h)⟩

/-- Settles O44: what a row reads from a word packs back into all of its bits. -/
theorem decodableWordsAreEncodings : Obligations.DecodableWordsAreEncodings := fun w i h => by
  obtain ⟨hwf, hw⟩ := decode_eq_ok_iff.1 h
  exact ⟨hwf, BitVec.eq_of_toNat_eq ((toNat_encode hwf).trans hw.symm)⟩

end roundTrips

section legalWords

open Sys2Proof.Claims

/-- The mask of a row: the opcode and the "must be 0" field. -/
def maskOf (lo width : Nat) : Nat := (2 ^ width - 1) * 2 ^ lo + (2 ^ 8 - 1)

/-- The rows in formats N, XI and R are those of the map that have a "must be 0" field. -/
theorem fixedRows_eq : fixedRows = opcodeMap.filterMap fun r => r.2.zeroField.map fun z => (r.1, maskOf z.1 z.2) := by
  decide

/-- The rows in format L. -/
theorem exists_list_row_iff {op : Nat} :
    (∃ mk, (op, .l mk) ∈ opcodeMap) ↔ op = 0x40 ∨ op = 0x41 ∨ op = 0x42 := by
  simp [opcodeMap, exists_or]

/-- A mask keeps the opcode and the "must be 0" field, each at its place. -/
theorem and_maskOf (w : Nat) {lo width : Nat} (hlo : 8 ≤ lo) :
    w &&& maskOf lo width = 2 ^ lo * (w / 2 ^ lo % 2 ^ width) + w % 2 ^ 8 := by
  have h8 : 2 ^ 8 - 1 < 2 ^ lo := Nat.lt_of_lt_of_le (by decide) (Nat.pow_le_pow_right (by decide) hlo)
  have hhigh : maskOf lo width / 2 ^ lo = 2 ^ width - 1 := by
    rw [maskOf, Nat.mul_comm, Nat.mul_add_div (by positivity), Nat.div_eq_of_lt h8, Nat.add_zero]
  have hlow : maskOf lo width % 2 ^ lo = 2 ^ 8 - 1 := by
    rw [maskOf, Nat.mul_add_mod_self_right, Nat.mod_eq_of_lt h8]
  rw [← Nat.div_add_mod (w &&& maskOf lo width) (2 ^ lo), Nat.and_div_two_pow, Nat.and_mod_two_pow, hhigh, hlow,
    Nat.and_two_pow_sub_one_eq_mod, Nat.and_two_pow_sub_one_eq_mod, Nat.mod_mod_of_dvd _ (pow_dvd_pow 2 hlo)]

/-- A word matches a row where it has the row's opcode and 0 in the "must be 0" field. -/
theorem and_maskOf_eq_iff {w : Word} {op lo width : Nat} (hop : op < 2 ^ 8) (hlo : 8 ≤ lo) :
    w.toNat &&& maskOf lo width = op ↔ field w 0 8 = op ∧ field w lo width = 0 := by
  rw [and_maskOf _ hlo, field, field, pow_zero, Nat.div_one]
  have hpow : 2 ^ 8 ≤ 2 ^ lo := Nat.pow_le_pow_right (by decide) hlo
  rcases Nat.eq_zero_or_pos (w.toNat / 2 ^ lo % 2 ^ width) with hz | hz
  · simp [hz]
  · have := Nat.le_mul_of_pos_right (2 ^ lo) hz
    omega

theorem OpcodeFormat.exists_read_iff_zeroField {w : Word} {f : OpcodeFormat} {z : Nat × Nat} (hz : f.zeroField = some z) :
    (∃ i, f.read w = .ok i) ↔ field w z.1 z.2 = 0 := by
  cases f <;> cases hz <;>
    simp [read, formatN, formatXI_eq_ok_iff, formatR1, formatR2, formatR3, formatR4, zeroAbove_eq_ok_iff]

theorem OpcodeFormat.le_zeroField {f : OpcodeFormat} {z : Nat × Nat} (hz : f.zeroField = some z) : 8 ≤ z.1 := by
  cases f <;> cases hz <;> decide

/-- Formats N, XI and R: the rows that a word matches are those of its opcode that read it. -/
theorem exists_fixedRows_iff {w : Word} :
    (∃ r ∈ fixedRows, w.toNat &&& r.2 = r.1) ↔
      ∃ r ∈ opcodeMap, r.2.zeroField ≠ none ∧ field w 0 8 = r.1 ∧ ∃ i, r.2.read w = .ok i := by
  have hrow : ∀ r ∈ opcodeMap, ∀ z, r.2.zeroField = some z →
      (w.toNat &&& maskOf z.1 z.2 = r.1 ↔ field w 0 8 = r.1 ∧ ∃ i, r.2.read w = .ok i) := fun r hr z hz => by
    rw [OpcodeFormat.exists_read_iff_zeroField hz, and_maskOf_eq_iff (opcode_lt hr) (OpcodeFormat.le_zeroField hz)]
  rw [fixedRows_eq]
  constructor
  · rintro ⟨m, hm, hw⟩
    obtain ⟨r, hr, hz⟩ := List.mem_filterMap.1 hm
    obtain ⟨z, hzero, rfl⟩ := Option.map_eq_some_iff.1 hz
    exact ⟨r, hr, by simp [hzero], (hrow r hr z hzero).1 hw⟩
  · rintro ⟨r, hr, hz, hw⟩
    obtain ⟨z, hz⟩ := Option.ne_none_iff_exists'.1 hz
    exact ⟨_, List.mem_filterMap.2 ⟨r, hr, by rw [hz]; rfl⟩, (hrow r hr z hz).2 hw⟩

/-- Format L: the legal words are those that a row of their opcode reads. -/
theorem legalListWord_iff {w : Word} :
    LegalListWord w ↔ ∃ mk, (field w 0 8, .l mk) ∈ opcodeMap ∧ ∃ i, formatL w mk = .ok i := by
  have hread : ∀ mk, (∃ i, formatL w mk = .ok i) ↔
      1 ≤ field w 11 3 ∧ field w 11 3 ≤ 6 ∧ w.toNat / 2 ^ (14 + 3 * field w 11 3) = 0 := fun mk => by
    simp only [formatL_eq_ok_iff, exists_and_left, exists_eq', and_true, and_assoc]
    exact and_congr_right fun _ => and_congr_right fun hn => drop_slots_all_zero_iff w hn
  have hop : field w 0 8 = w.toNat % 256 := by rw [field, pow_zero, Nat.div_one]; rfl
  simp only [hread, exists_and_right, exists_list_row_iff, hop]
  exact Iff.rfl

/-- Settles O45: a word decodes where the row of its opcode reads it, and that row has a "must be 0" field or is in
format L. -/
theorem exactlyTheListedWordsAreLegal : Obligations.ExactlyTheListedWordsAreLegal := fun w => by
  simp only [decode_eq_ok_iff_read, exists_fixedRows_iff, legalListWord_iff]
  constructor
  · rintro ⟨i, ⟨op, f⟩, hr, rfl, h⟩
    cases f with
    | l mk => exact .inr ⟨mk, hr, i, h⟩
    | _ => exact .inl ⟨_, hr, nofun, rfl, i, h⟩
  · rintro (⟨r, hr, -, hop, i, h⟩ | ⟨mk, hr, i, h⟩)
    · exact ⟨i, r, hr, hop, h⟩
    · exact ⟨i, _, hr, rfl, h⟩

/-- Settles O42, word by word. -/
theorem sampleWordsDecode : Obligations.SampleWordsDecode := by
  unfold Obligations.SampleWordsDecode
  decide

end legalWords

end Sys2Proof
end

section
/-! SUPPORT. The words and the outcomes of the commands in the terms of the obligations (Sys2Proof/Obligations.lean): a word
given by its fields decodes, and a command's outcome is one of the named next states. -/

namespace Sys2Proof.Machine

open Sys2Proof.Claims

section words

/-- The word of a format R command, from the field table, is the one that the encoder packs (30_encoding.md R83). -/
theorem rWord_eq_packR (op : Nat) (rd ra rb rc : Fin 8) : rWord op rd ra rb rc = BitVec.ofNat 32 (packR op rd ra rb rc) := by
  rw [rWord, packR]
  congr 1
  omega

/-- A format R word decodes to the command that packs its fields; an unused field is 0. -/
theorem decode_rWord {i : Instr} {op : Nat} {rd ra rb rc : Fin 8} (hi : i.wellFormed = true)
    (hpack : encodeNat i = packR op rd ra rb rc) : decode (rWord op rd ra rb rc) = .ok i := by
  rw [rWord_eq_packR, ← hpack]
  exact decode_encode hi

theorem toNat_append_byte {n : Nat} (hi : BitVec n) (b : Byte) : (hi ++ b).toNat = hi.toNat * 2 ^ 8 + b.toNat := by
  rw [BitVec.toNat_append, ← Nat.shiftLeft_add_eq_or_of_lt b.isLt, Nat.shiftLeft_eq]

/-- The four bytes at PC, joined, are the word that the engine reads there (30_encoding.md R80). -/
theorem State.commandWord_eq_wordAtPc (s : State) : s.commandWord = wordAtPc s := by
  have hbytes : s.memRead s.pc.toNat 4 =
      [s.byteAt s.pc.toNat, s.byteAt (s.pc.toNat + 1), s.byteAt (s.pc.toNat + 2), s.byteAt (s.pc.toNat + 3)] := rfl
  rw [State.commandWord, State.readU32, hbytes, wordAtPc]
  generalize s.byteAt s.pc.toNat = b0, s.byteAt (s.pc.toNat + 1) = b1, s.byteAt (s.pc.toNat + 2) = b2,
    s.byteAt (s.pc.toNat + 3) = b3
  have := b1.isLt
  have := b2.isLt
  have := b3.isLt
  refine BitVec.eq_of_toNat_eq ?_
  simp only [toNat_append_byte, BitVec.toNat_ofNat, leNat, List.foldr_cons, List.foldr_nil]
  omega

end words

section outcomes

/-- A raised fault is the fault entry, with the word at PC in FINST (60_exceptions.md R302). -/
theorem State.raise_eq_faulted (s : State) (f : Trap) (info : Nat) : s.raise f info = .next (faulted s f info) := by
  rw [State.raise, State.commandWord_eq_wordAtPc]
  rfl

theorem State.setV_complete (s : State) (i : VIx) (r : VReg) :
    (s.setV i r).complete = .next (wroteV s i r.bits r.floor) := rfl

theorem State.setX_complete (s : State) (i : XIx) (n : Nat) : (s.setX i n).complete = .next (wroteX s i n) := rfl

theorem State.writeResult_complete (s : State) (i : VIx) (bits : List Bool) :
    (s.writeResult i bits).complete = .next (wroteV s i bits 0) := rfl

theorem State.setV_setX_complete (s : State) (i : VIx) (r : VReg) (j : XIx) (n : Nat) :
    ((s.setV i r).setX j n).complete =
      .next { s with x := s.x.set j (BitVec.ofNat 64 n), v := s.v.set i r, pc := s.pc + 4 } := rfl

/-- A needed length above MAXLEN is the fault entry of CAPACITY (60_exceptions.md R301). -/
theorem State.inCapacity_faulted {s : State} {n : Nat} (h : s.cfg.maxLen < n) (use : Result) :
    s.inCapacity n use = .next (faulted s .capacity n) := by
  rw [State.inCapacity_out h, State.raise_eq_faulted]

end outcomes

end Sys2Proof.Machine
end

section
/-! SUPPORT. The bit store commands (40_bit_store.md R104 to R117) and the two that read or invert one vector (43_set_algebra.md
R245, 44_cardinality.md R262): what their bit operations compute, in the library's terms, and the obligations about them. -/

namespace Sys2Proof.Machine

open Sys2Proof.Claims

section bits

/-- Bool (40_bit_store.md R103) as a decision. -/
theorem truthy_eq_decide (n : Nat) : truthy n = decide (n ≠ 0) := by
  rw [decide_not]
  rfl

/-- A bit as the value of a scalar register. -/
theorem ofNat_toNat_bit (b : Bool) : BitVec.ofNat 64 b.toNat = if b then 1 else 0 := by
  cases b <;> rfl

/-- A bit compared with a value that is 0 or 1 is compared with that bit. -/
theorem toNat_beq_bit (b c : Bool) : (c.toNat == if b then 1 else 0) = (c == b) := by
  cases b <;> cases c <;> rfl

/-- Cover appends zeros up to the index and the floor (40_bit_store.md R101). -/
theorem VReg.cover_eq (r : VReg) (k : Nat) :
    r.cover k = { r with bits := r.bits ++ List.replicate (max (k + 1) r.floor - r.bits.length) false } :=
  r.fill_eq _

/-- Zero-extension changes no bit as it is read, an index beyond the length reading as 0 (40_bit_store.md R106). -/
theorem getD_append_zeros (l : List Bool) (n k : Nat) :
    (l ++ List.replicate n false).getD k false = decide (l[k]? = some true) := by
  rcases Nat.lt_or_ge k l.length with hk | hk
  · rw [List.getD_append _ _ _ _ hk, List.getD_eq_getElem _ _ hk, List.getElem?_eq_getElem hk]
    simp
  · rw [List.getD_append_right _ _ _ _ hk, List.getElem?_eq_none hk]
    simp only [List.getD_eq_getElem?_getD, List.getElem?_replicate]
    split <;> rfl

/-- Clamping begin and end to the length does not change the slice, which is empty where end is not above begin
(40_bit_store.md R115). -/
theorem slice_clamped {α : Type} (l : List α) (b e : Nat) :
    (if min b l.length < min e l.length then (l.take (min e l.length)).drop (min b l.length) else []) =
      (l.take e).drop b := by
  split
  · have hb : min b l.length = b := by omega
    have he : l.take (min e l.length) = l.take e := List.take_eq_take_iff.2 (by omega)
    rw [hb, he]
  · exact (List.drop_eq_nil_of_le (by rw [List.length_take]; omega)).symm

/-- The least index of a value, by its defining property (40_bit_store.md R114). -/
theorem idxOf?_eq_some_of_first {l : List Bool} {b : Bool} {i : Nat} (hi : l[i]? = some b)
    (hfirst : ∀ j < i, l[j]? ≠ some b) : l.idxOf? b = some i := by
  obtain ⟨hlt, hget⟩ := List.getElem?_eq_some_iff.1 hi
  exact List.idxOf?_eq_some_iff.2 ⟨hlt, hget, fun j hj hb => hfirst j hj (List.getElem?_eq_some_iff.2 ⟨_, hb⟩)⟩

/-- The number of ones is the sum of the bits (44_cardinality.md R262). -/
theorem countP_id_eq_sum (l : List Bool) : l.countP id = (l.map Bool.toNat).sum := by
  induction l with
  | nil => rfl
  | cons b l ih =>
    rw [List.countP_cons, List.map_cons, List.sum_cons, ← ih, Nat.add_comm]
    cases b <;> rfl

end bits

section growing

/-- Settles O3: both are the zero-extension of `VReg.fill_eq` behind the same capacity check. -/
theorem fillAndSflrZeroExtend : Obligations.FillAndSflrZeroExtend := by
  intro s rd ra
  refine ⟨decode_rWord rfl rfl, decode_rWord rfl rfl, fun hfits => ⟨?_, ?_⟩, fun hlong => ⟨?_, ?_⟩⟩
  · rw [exec, execFill, State.inCapacity_in hfits, VReg.fill_eq, State.setV_complete]
  · rw [exec, execSflr, State.inCapacity_in hfits, VReg.fill_eq, State.setV_complete]
  · exact State.inCapacity_faulted hlong _
  · exact State.inCapacity_faulted hlong _

/-- Settles O4: the index is covered and then written, behind the check of k + 1. -/
theorem setWritesOneBitAndGrows : Obligations.SetWritesOneBitAndGrows := by
  intro s rd ra rb
  refine ⟨decode_rWord rfl rfl, fun hfits => ?_, fun hlarge => ?_⟩
  · rw [exec, execSet, State.inCapacity_in hfits, VReg.cover_eq, truthy_eq_decide, State.setV_complete]
  · exact State.inCapacity_faulted (Nat.lt_succ_of_le hlarge) _

/-- Settles O5: the source is covered, and the bit read from it is the old one, or 0 beyond the old length. -/
theorem getReadsOneBitAndMayGrowItsSource : Obligations.GetReadsOneBitAndMayGrowItsSource := by
  intro s rd ra rb
  refine ⟨decode_rWord rfl rfl, fun hfits => ?_, fun hlarge => ?_⟩
  · rw [exec, execGet, State.inCapacity_in hfits, VReg.cover_eq, State.setV_setX_complete, getD_append_zeros,
      ofNat_toNat_bit]
    simp only [decide_eq_true_eq]
  · exact State.inCapacity_faulted (Nat.lt_succ_of_le hlarge) _

/-- Settles O8: no floor is applied, so the bit stands at index len. -/
theorem pushAppendsOneBit : Obligations.PushAppendsOneBit := by
  intro s rd ra
  refine ⟨decode_rWord rfl rfl, fun hfits => ?_, fun hfull => ?_⟩
  · rw [exec, execPush, State.inCapacity_in hfits, truthy_eq_decide, State.setV_complete]
  · exact State.inCapacity_faulted (Nat.lt_succ_of_le hfull) _

end growing

section replacing

/-- Settles O6: CLR and CLONE write their bits as they stand, and SETV fills them to the destination's floor. -/
theorem clrCloneSetvClearCopyReplace : Obligations.ClrCloneSetvClearCopyReplace := by
  intro s rd ra
  refine ⟨decode_rWord rfl rfl, decode_rWord rfl rfl, decode_rWord rfl rfl, ?_, ?_, ?_⟩
  · rw [exec, execClr, zeros, State.setV_complete]
  · rw [exec, execClone, State.setV_complete]
  · rw [exec, execSetv, VReg.fill_eq, State.setV_complete]

/-- Settles O9: the last bit is none exactly for an empty vector. -/
theorem popRemovesTheLastBit : Obligations.PopRemovesTheLastBit := by
  intro s rd ra
  refine ⟨decode_rWord rfl rfl, fun hempty => ?_, fun l b hlast => ?_⟩
  · simp only [exec, execPop, hempty, List.getLast?_nil, State.setX_complete]
    rfl
  · simp only [exec, execPop, hlast, List.getLast?_concat, List.dropLast_concat, State.setV_setX_complete,
      ofNat_toNat_bit]

/-- Settles O10: BREV writes its own register back with its floor, and NOT is a plain result. -/
theorem brevReversesAndNotInverts : Obligations.BrevReversesAndNotInverts := by
  intro s rd ra
  have hnot : (fun b : Bool => !b) = fun b => if b then false else true := by
    funext b
    cases b <;> rfl
  refine ⟨decode_rWord rfl rfl, decode_rWord rfl rfl, ?_, ?_⟩
  · rw [exec, execBrev, State.setV_complete]
  · rw [exec, execNot, State.writeResult_complete, hnot]

/-- Settles O12: the slice is a plain result, and the clamping of its bounds makes no difference. -/
theorem sliceCopiesARange : Obligations.SliceCopiesARange := by
  intro s rd ra rb rc
  refine ⟨decode_rWord rfl rfl, ?_⟩
  rw [exec, execSlice, State.writeResult_complete, slice_clamped]

end replacing

section reading

variable {s : State} {rd : XIx} {ra rb : VIx}

theorem exec_eq_of_bits_eq (h : (s.v.get ra).bits = (s.v.get rb).bits) : exec (.eq rd ra rb) s = .next (wroteX s rd 1) := by
  rw [exec, execEq, if_pos h, State.setX_complete]

theorem exec_eq_of_bits_ne (h : (s.v.get ra).bits ≠ (s.v.get rb).bits) : exec (.eq rd ra rb) s = .next (wroteX s rd 0) := by
  rw [exec, execEq, if_neg h, State.setX_complete]

/-- IDXOF of a value that is a bit is the library's least index, or NONE (40_bit_store.md R114). -/
theorem exec_idxof_of_bit {rv : XIx} {b : Bool} (hv : s.xNat rv = if b then 1 else 0) :
    exec (.idxof rd ra rv) s = .next (wroteX s rd (((s.v.get ra).bits.idxOf? b).getD noneValue)) := by
  have hle : (if b then 1 else 0) ≤ 1 := by cases b <;> decide
  simp only [exec, execIdxof, hv, if_pos hle, toNat_beq_bit]
  rw [List.idxOf?]
  cases List.findIdx? (· == b) (s.v.get ra).bits <;> rfl

end reading

section answers

/-- Settles O7: equal bits at every index below equal lengths are equal sequences. -/
theorem eqComparesStructurally : Obligations.EqComparesStructurally := by
  intro s rd ra rb
  refine ⟨decode_rWord rfl rfl, fun hlen hbits => exec_eq_of_bits_eq ?_, fun hlen => exec_eq_of_bits_ne ?_,
    fun i _ hbit => exec_eq_of_bits_ne ?_⟩
  · exact List.ext_getElem?' fun i hi => hbits i (by rwa [← hlen, max_self] at hi)
  · exact fun h => hlen (congrArg List.length h)
  · exact fun h => hbit (congrArg (·[i]?) h)

/-- Settles O11: found, absent, and a value that is no bit. -/
theorem idxofFindsTheFirstIndex : Obligations.IdxofFindsTheFirstIndex := by
  intro s rd ra rb
  refine ⟨decode_rWord rfl rfl, fun i b hv hi hfirst => ?_, fun b hv habsent => ?_, fun hlarge => ?_⟩
  · rw [exec_idxof_of_bit hv, idxOf?_eq_some_of_first hi hfirst, Option.getD_some]
  · rw [exec_idxof_of_bit hv, List.idxOf?_eq_none_iff.2 habsent, Option.getD_none]
    rfl
  · rw [exec, execIdxof, if_neg (Nat.not_le.2 hlarge), State.setX_complete]
    rfl

/-- Settles O13: LEN is the length itself, and POPCV's scan adds up the bits. -/
theorem lenAndPopcvMeasureAVector : Obligations.LenAndPopcvMeasureAVector := by
  intro s rd ra
  refine ⟨decode_rWord rfl rfl, decode_rWord rfl rfl, ?_, ?_⟩
  · rw [exec, execLen, State.setX_complete]
  · rw [exec, execPopcv, State.setX_complete, countP_id_eq_sum]

end answers

end Sys2Proof.Machine
end

section
/-! SUPPORT. What the codec's shared definitions (Sys2Proof/Machine/Codec.lean) compute, in the terms of the obligations: a
number's digits as `bitsOf` and `octetBits`, the bytes and elements of a source range, the digits of text, and FOFF's loop. -/

namespace Sys2Proof.Machine

open Sys2Proof.Claims

section bitLists

/-- A bit sequence is given by its length and by each bit below it. -/
theorem eq_map_range_of_getD {l : List Bool} {n : Nat} {f : Nat → Bool} (hlen : l.length = n)
    (hbit : ∀ i < n, l.getD i false = f i) : l = (List.range n).map f := by
  refine List.ext_getElem (by simpa using hlen) fun i hi _ => ?_
  rw [List.getElem_map, List.getElem_range, ← hbit i (hlen ▸ hi), List.getD_eq_getElem _ _ hi]

/-- Rows of `m` elements each, one after the other, are one list whose element i is element i % m of row i / m. -/
theorem flatMap_range_map_range {α : Type} {m : Nat} (hm : 0 < m) (f : Nat → Nat → α) (n : Nat) :
    ((List.range n).flatMap fun k => (List.range m).map (f k)) =
      (List.range (m * n)).map fun i => f (i / m) (i % m) := by
  induction n with
  | zero => rfl
  | succ n ih =>
    have hrow : ∀ j ∈ List.range m, f n j = f ((m * n + j) / m) ((m * n + j) % m) := fun j hj => by
      have hj : j < m := List.mem_range.1 hj
      rw [Nat.mul_add_div hm, Nat.mul_add_mod, Nat.div_eq_of_lt hj, Nat.mod_eq_of_lt hj, Nat.add_zero]
    rw [List.range_succ, List.flatMap_append, ih, List.flatMap_singleton, Nat.mul_succ, List.range_add, List.map_append,
      List.map_map, List.map_congr_left hrow]
    rfl

end bitLists

section digits

/-- LSBDigits are the bits of the number, index i holding bit i (41_codec_import.md R150). -/
theorem lsbDigits_eq_bitsOf (v : Nat) : lsbDigits v = bitsOf v :=
  eq_map_range_of_getD (length_lsbDigits v) fun i _ => getD_lsbDigits v i

/-- Octet alignment only appends zeros (41_codec_import.md R151). -/
theorem octetAlign_eq_append (l : List Bool) :
    octetAlign l = l ++ List.replicate ((octetAlign l).length - l.length) false := by
  unfold octetAlign zeros
  split <;> simp

theorem getD_octetAlign (l : List Bool) (i : Nat) : (octetAlign l).getD i false = l.getD i false := by
  rw [octetAlign_eq_append, getD_append_zeros, ← getD_append_zeros l 0, List.replicate_zero, List.append_nil]

/-- OctetDigits are the bits over the octet width, most significant first (41_codec_import.md R152). -/
theorem octetDigits_eq_octetBits (v : Nat) : octetDigits v = octetBits v := by
  have hlen : (octetDigits v).length = octetWidth v := length_octetDigits v
  refine eq_map_range_of_getD hlen fun i hi => ?_
  have hwidth : (octetAlign (lsbDigits v)).length = octetWidth v := by rwa [octetDigits, List.length_reverse] at hlen
  rw [octetDigits, List.getD_reverse _ (hwidth ▸ hi), hwidth, getD_octetAlign, getD_lsbDigits]

/-- A byte has exactly eight octet-aligned bits, bit 7 first (41_codec_import.md R167, 20_memory.md R64). -/
theorem octetDigits_byte (b : Byte) : octetDigits b.toNat = (List.range 8).map fun j => b.toNat.testBit (7 - j) := by
  have hwidth : octetWidth b.toNat = 8 := (length_octetDigits b.toNat).symm.trans (length_octetDigits_byte b)
  rw [octetDigits_eq_octetBits, octetBits, hwidth]

/-- The decimal digits re-read as hexadecimal digits; the "0" of 0 adds nothing (41_codec_import.md R166). -/
theorem rereadAsHex_eq_ofDigits (v : Nat) : rereadAsHex v = Nat.ofDigits 16 (Nat.digits 10 v) := by
  rw [rereadAsHex, digitsValue_eq_ofDigits, decimalDigits]
  split
  case isTrue hv => rw [hv]; rfl
  case isFalse => rw [List.reverse_reverse, digitsOf_eq_digits (by decide)]

end digits

section sources

variable (s : State)

/-- Part of a source range is a source range of its own. -/
theorem State.take_drop_memRead (a n i m : Nat) :
    ((s.memRead a n).drop i).take m = s.memRead (a + i) (min m (n - i)) := by
  refine List.ext_getElem (by simp) fun j _ _ => ?_
  simp [State.memRead, Nat.add_assoc]

theorem State.drop_memRead (a n i : Nat) : (s.memRead a n).drop i = s.memRead (a + i) (n - i) := by
  have h := s.take_drop_memRead a n i (n - i)
  rwa [List.take_of_length_le (by simp), Nat.min_self] at h

/-- The bytes of a range, the last one first (41_codec_import.md R157, R153). -/
theorem State.reverse_memRead (a n : Nat) :
    (s.memRead a n).reverse = (List.range n).map fun i => s.byteAt (a + (n - 1 - i)) := by
  refine List.ext_getElem (by simp) fun i _ _ => ?_
  simp [State.memRead]

/-- Four bytes of DMEM as one little-endian number (20_memory.md R63). -/
theorem State.leNat_memRead_four (a : Nat) : leNat (s.memRead a 4) = u32At s a := by
  have hbytes : s.memRead a 4 = [s.byteAt a, s.byteAt (a + 1), s.byteAt (a + 2), s.byteAt (a + 3)] := rfl
  rw [hbytes, u32At]
  simp only [leNat, List.foldr_cons, List.foldr_nil]
  omega

/-- A range of 4n bytes is n little-endian elements (20_memory.md R63). -/
theorem State.chunks_memRead (a n : Nat) :
    chunks 4 (s.memRead a (4 * n)) = (List.range n).map fun k => s.memRead (a + 4 * k) 4 := by
  rw [chunks_eq (by decide), State.length_memRead, show (4 * n + 4 - 1) / 4 = n by omega]
  refine List.map_congr_left fun k hk => ?_
  have hk : k < n := List.mem_range.1 hk
  rw [State.take_drop_memRead, show min 4 (4 * n - 4 * k) = 4 by omega]

variable {s} {a n : Nat} {bad : Byte → Bool} {Ok : Byte → Prop}

/-- A search of a source range stops at its first bad byte. -/
theorem State.findIdx?_memRead_eq_some (hbad : ∀ b, bad b = true ↔ ¬Ok b) {j : Nat} (hj : j < n)
    (hbyte : ¬Ok (s.byteAt (a + j))) (hfirst : ∀ k < j, Ok (s.byteAt (a + k))) :
    (s.memRead a n).findIdx? bad = some j := by
  refine List.findIdx?_eq_some_iff_getElem.2 ⟨by simpa using hj, ?_, fun k hk => ?_⟩
  · simpa [State.memRead, hbad] using hbyte
  · simpa [State.memRead, hbad] using hfirst k hk

/-- A search of a source range without bad bytes finds none. -/
theorem State.findIdx?_memRead_eq_none (hbad : ∀ b, bad b = true ↔ ¬Ok b) (hall : ∀ k < n, Ok (s.byteAt (a + k))) :
    (s.memRead a n).findIdx? bad = none := by
  refine List.findIdx?_eq_none_iff.2 fun b hb => ?_
  obtain ⟨k, hk, rfl⟩ := List.mem_map.1 hb
  exact Bool.eq_false_iff.2 fun h => (hbad _).1 h (hall k (List.mem_range.1 hk))

end sources

section text

variable {val : Byte → Option Nat} {bs : List Byte}

/-- Text whose bytes are all digits is read as those digits. -/
theorem readDigits_eq_ok {ds : List Nat} (h : bs.map val = ds.map some) (j : Nat) : readDigits val j bs = .ok ds := by
  induction bs generalizing j ds with
  | nil =>
    obtain rfl : ds = [] := by simpa using h.symm
    rfl
  | cons b bs ih =>
    cases ds with
    | nil => cases h
    | cons d ds =>
      obtain ⟨hd, hds⟩ := List.cons_eq_cons.1 h
      simp only [readDigits, hd, ih hds]

/-- Text with a byte that is no digit is refused at the first one, counted from `j`. -/
theorem readDigits_eq_error {i : Nat} (h : bs.findIdx? (fun b => (val b).isNone) = some i) (j : Nat) :
    readDigits val j bs = .error (j + i) := by
  induction bs generalizing i j with
  | nil => cases h
  | cons b bs ih =>
    rw [List.findIdx?_cons] at h
    cases hb : val b with
    | none =>
      obtain rfl : 0 = i := by simpa [hb] using h
      simp only [readDigits, hb, Nat.add_zero]
    | some d =>
      obtain ⟨k, hk, rfl⟩ : ∃ k, bs.findIdx? (fun b => (val b).isNone) = some k ∧ k + 1 = i := by simpa [hb] using h
      simp only [readDigits, hb, ih hk, Nat.add_assoc, Nat.add_comm 1 k]

theorem parseDigits_nil (base j : Nat) : parseDigits val base j [] = .error j := rfl

/-- Text of digits has its positional value (41_codec_import.md R153, R154). -/
theorem parseDigits_eq_ok {ds : List Nat} (hne : bs ≠ []) (h : bs.map val = ds.map some) (base j : Nat) :
    parseDigits val base j bs = .ok (Nat.ofDigits base ds.reverse) := by
  simp only [parseDigits, if_neg hne, readDigits_eq_ok h, digitsValue_eq_ofDigits]

theorem parseDigits_eq_error {i : Nat} (h : bs.findIdx? (fun b => (val b).isNone) = some i) (base j : Nat) :
    parseDigits val base j bs = .error (j + i) := by
  have hne : bs ≠ [] := by rintro rfl; cases h
  simp only [parseDigits, if_neg hne, readDigits_eq_error h]

theorem decVal_of_digit {b : Byte} (h : 0x30 ≤ b.toNat ∧ b.toNat ≤ 0x39) : decVal b = some (b.toNat - 0x30) := if_pos h

/-- The bytes that ParseDec refuses (41_codec_import.md R153). -/
theorem isNone_decVal (b : Byte) : (decVal b).isNone = true ↔ ¬(0x30 ≤ b.toNat ∧ b.toNat ≤ 0x39) := by
  simp only [decVal]
  split
  case isTrue h => simpa using h
  case isFalse h => simpa using h

/-- HexVal reads exactly the hexadecimal digits of either case (41_codec_import.md R154). -/
theorem hexVal_eq_some_iff (b : Byte) (d : Nat) : hexVal b = some d ↔ IsHexDigit b d := by
  simp only [hexVal, IsHexDigit]
  split_ifs <;> simp only [Option.some.injEq, false_iff] <;> omega

/-- The bytes that ParseHex refuses (41_codec_import.md R154). -/
theorem isNone_hexVal (b : Byte) : (hexVal b).isNone = true ↔ ¬∃ d, IsHexDigit b d := by
  simp only [← hexVal_eq_some_iff, Option.isNone_iff_eq_none, Option.eq_none_iff_forall_ne_some, not_exists]

/-- What ParseHex skips: the bytes `0x` at the start of a range of at least two bytes (41_codec_import.md R154). -/
theorem State.hexPrefix_memRead (s : State) (a n : Nat) :
    hexPrefix (s.memRead a n) = if 2 ≤ n ∧ s.byteAt a = 0x30#8 ∧ s.byteAt (a + 1) = 0x78#8 then 2 else 0 := by
  have htake : (s.memRead a n).take 2 = s.memRead a (min 2 n) := s.take_drop_memRead a n 0 2
  refine if_congr ?_ rfl rfl
  rw [htake]
  rcases Nat.lt_or_ge n 2 with hn | hn
  · refine iff_of_false (fun h => ?_) fun h => Nat.not_le.2 hn h.1
    have hlen := congrArg List.length h
    rw [State.length_memRead, List.length_cons, List.length_singleton] at hlen
    omega
  · rw [Nat.min_eq_left hn, show s.memRead a 2 = [s.byteAt a, s.byteAt (a + 1)] from rfl]
    simp [hn]

end text

section offsets

/-- FOFF's step sets one bit and leaves every other as it is read (41_codec_import.md R163). -/
theorem getD_setOffset (l : List Bool) (o i : Nat) : (setOffset l o).getD i false = (decide (i = o) || l.getD i false) := by
  simp only [List.getD_eq_getElem?_getD, getElem?_setOffset]
  by_cases hio : i = o
  · simp [hio]
  · rcases Nat.lt_or_ge i l.length with hi | hi
    · simp [hio, hi]
    · rw [if_neg hio, if_neg (Nat.not_lt.2 hi), List.getElem?_eq_none hi, decide_eq_false hio]
      split <;> rfl

theorem length_foldl_setOffset (offs : List Nat) (l : List Bool) :
    (offs.foldl setOffset l).length = max l.length ((offs.map (· + 1)).foldr max 0) := by
  induction offs generalizing l with
  | nil => simp
  | cons o offs ih => rw [List.foldl_cons, ih, length_setOffset, List.map_cons, List.foldr_cons, max_assoc]

theorem getD_foldl_setOffset (offs : List Nat) (l : List Bool) (i : Nat) :
    (offs.foldl setOffset l).getD i false = (decide (i ∈ offs) || l.getD i false) := by
  induction offs generalizing l with
  | nil => simp
  | cons o offs ih =>
    rw [List.foldl_cons, ih, getD_setOffset, ← Bool.or_assoc, ← Bool.decide_or]
    congr 2
    rw [List.mem_cons, or_comm]

/-- FOFF's loop sets exactly the listed bits (41_codec_import.md R163). -/
theorem foldl_setOffset_nil (offs : List Nat) :
    offs.foldl setOffset [] = (List.range ((offs.map (· + 1)).foldr max 0)).map fun i => decide (i ∈ offs) := by
  refine eq_map_range_of_getD ?_ fun i _ => ?_
  · rw [length_foldl_setOffset, List.length_nil, Nat.zero_max]
  · rw [getD_foldl_setOffset, List.getD_nil, Bool.or_false]

end offsets

end Sys2Proof.Machine
end

section
/-! SUPPORT. The codec import commands (41_codec_import.md R156 to R167): the obligations about them. Each is the command's checks
in the order of 60_exceptions.md R304, and then what its digits, bytes or elements compute. -/

namespace Sys2Proof.Machine

open Sys2Proof.Claims

section outcomes

variable {s : State}

/-- A source range that leaves DMEM is the fault entry of MEM_RANGE (60_exceptions.md R301). -/
theorem State.fromSource_faulted {a n : Nat} (h : ¬InRange s.cfg a n) (use : List Byte → Result) :
    s.fromSource a n use = .next (faulted s .memRange a) := by
  rw [State.fromSource_out h, State.raise_eq_faulted]

/-- A number outside the numeric domain is the fault entry of OVERFLOW (60_exceptions.md R301). -/
theorem State.inDomain_faulted {v : Nat} (h : 2 ^ s.cfg.numBits ≤ v) (use : Nat → Result) :
    s.inDomain v use = .next (faulted s .overflow 0) := by
  rw [State.inDomain_out h, State.raise_eq_faulted]

/-- A result that fits is written with floor 0 (40_bit_store.md R102). -/
theorem State.inCapacity_writeResult {n : Nat} (h : n ≤ s.cfg.maxLen) (rd : VIx) (bits : List Bool) :
    s.inCapacity n (s.writeResult rd bits).complete = .next (wroteV s rd bits 0) := by
  rw [State.inCapacity_in h, State.writeResult_complete]

/-- A number of the numeric domain is delivered as its bits: FNUM, FDEC, FHEX and FHEXN. -/
theorem State.inDomain_writeResult {v : Nat} (h : v < 2 ^ s.cfg.numBits) (rd : VIx) :
    (s.inDomain v fun v => (s.writeResult rd (lsbDigits v)).complete) = .next (wroteV s rd (bitsOf v) 0) := by
  rw [State.inDomain_in h, State.writeResult_complete, lsbDigits_eq_bitsOf]

end outcomes

section numbers

/-- Settles O14: OCTET's length is the next positive multiple of 8, so the zeros that it appends are at most 8, and 8 only for
an empty source. -/
theorem newEmptiesAndOctetPads : Obligations.NewEmptiesAndOctetPads := by
  intro s rd ra
  have hlen := length_octetAlign (s.v.get ra).bits
  have hempty : (s.v.get ra).bits = [] ↔ (s.v.get ra).bits.length = 0 := List.length_eq_zero_iff.symm
  refine ⟨decode_rWord rfl rfl, decode_rWord rfl rfl, ?_,
    (octetAlign (s.v.get ra).bits).length - (s.v.get ra).bits.length, ?_, ?_⟩
  · rw [exec, execNew, State.writeResult_complete]
  · rw [exec, execOctet, State.writeResult_complete, ← octetAlign_eq_append]
  · rw [hempty]
    split at hlen <;> omega

/-- Settles O16: both check the domain, and then write the digits of the number. -/
theorem fnumAndFnumoDecomposeANumber : Obligations.FnumAndFnumoDecomposeANumber := by
  intro s rd ra
  refine ⟨decode_rWord rfl rfl, decode_rWord rfl rfl, fun hfits => ⟨?_, ?_⟩, fun hlarge => ⟨?_, ?_⟩⟩
  · exact State.inDomain_writeResult hfits rd
  · rw [exec, execFnumo, State.inDomain_in hfits, State.writeResult_complete, octetDigits_eq_octetBits]
  · rw [exec, execFnum, State.inDomain_faulted hlarge]
  · rw [exec, execFnumo, State.inDomain_faulted hlarge]

/-- Settles O22: the domain is checked twice, of the operand and of its digits re-read in base 16. -/
theorem fhexnRereadsDecimalDigitsAsHexadecimal : Obligations.FhexnRereadsDecimalDigitsAsHexadecimal := by
  intro s rd ra h
  have hreread : rereadAsHex (s.xNat ra) = h := rereadAsHex_eq_ofDigits _
  refine ⟨decode_rWord rfl rfl, fun hlarge => ?_, fun hfits hlarge => ?_, fun hfits hresult => ?_⟩
  · rw [exec, execFhexn, State.inDomain_faulted hlarge]
  · rw [exec, execFhexn, State.inDomain_in hfits, hreread, State.inDomain_faulted hlarge]
  · rw [exec, execFhexn, State.inDomain_in hfits, hreread, State.inDomain_writeResult hresult]

end numbers

section parsing

/-- The bytes that FBIN refuses (41_codec_import.md R157). -/
theorem fbin_bad_iff (b : Byte) : (b != 0x30#8 && b != 0x31#8) = true ↔ ¬(b = 0x30#8 ∨ b = 0x31#8) := by
  simp

/-- The bytes that LDBITS refuses (41_codec_import.md R160). -/
theorem ldbits_bad_iff (b : Byte) : decide (1 < b.toNat) = true ↔ ¬(b = 0#8 ∨ b = 1#8) := by
  rw [decide_eq_true_eq]
  bv_omega

variable {s : State} {rd : VIx} {ra rb : XIx}

theorem exec_fdec_of_error (hin : InRange s.cfg (s.xNat ra) (s.xNat rb)) {j : Nat}
    (h : parseDec (s.memRead (s.xNat ra) (s.xNat rb)) = .error j) :
    exec (.fdec rd ra rb) s = .next (faulted s .badFmt j) := by
  rw [exec, execFdec, State.fromSource_in hin, h]
  exact State.raise_eq_faulted ..

theorem exec_fdec_of_ok (hin : InRange s.cfg (s.xNat ra) (s.xNat rb)) {v : Nat}
    (h : parseDec (s.memRead (s.xNat ra) (s.xNat rb)) = .ok v) :
    exec (.fdec rd ra rb) s = s.inDomain v fun v => (s.writeResult rd (lsbDigits v)).complete := by
  rw [exec, execFdec, State.fromSource_in hin, h]

theorem exec_fhex_of_error (hin : InRange s.cfg (s.xNat ra) (s.xNat rb)) {j : Nat}
    (h : parseHex (s.memRead (s.xNat ra) (s.xNat rb)) = .error j) :
    exec (.fhex rd ra rb) s = .next (faulted s .badFmt j) := by
  rw [exec, execFhex, State.fromSource_in hin, h]
  exact State.raise_eq_faulted ..

theorem exec_fhex_of_ok (hin : InRange s.cfg (s.xNat ra) (s.xNat rb)) {v : Nat}
    (h : parseHex (s.memRead (s.xNat ra) (s.xNat rb)) = .ok v) :
    exec (.fhex rd ra rb) s = s.inDomain v fun v => (s.writeResult rd (lsbDigits v)).complete := by
  rw [exec, execFhex, State.fromSource_in hin, h]

/-- ParseDec of a source range of digits: the last byte is the least significant digit (41_codec_import.md R153). -/
theorem State.parseDec_memRead_eq_ok {a n : Nat} (hn : 0 < n)
    (hall : ∀ k < n, 0x30 ≤ (s.byteAt (a + k)).toNat ∧ (s.byteAt (a + k)).toNat ≤ 0x39) :
    parseDec (s.memRead a n) =
      .ok (Nat.ofDigits 10 ((List.range n).map fun i => (s.byteAt (a + (n - 1 - i))).toNat - 0x30)) := by
  have hne : s.memRead a n ≠ [] := List.ne_nil_of_length_pos (by rwa [State.length_memRead])
  have hval : (s.memRead a n).map decVal = ((s.memRead a n).map fun b => b.toNat - 0x30).map some := by
    rw [List.map_map]
    refine List.map_congr_left fun b hb => ?_
    obtain ⟨k, hk, rfl⟩ := List.mem_map.1 hb
    exact decVal_of_digit (hall k (List.mem_range.1 hk))
  rw [parseDec, parseDigits_eq_ok hne hval, ← List.map_reverse, State.reverse_memRead, List.map_map]
  rfl

/-- ParseHex of a source range reads the digits after a leading `0x` (41_codec_import.md R154). -/
theorem State.parseHex_memRead {a n p : Nat}
    (hp : p = if 2 ≤ n ∧ s.byteAt a = 0x30#8 ∧ s.byteAt (a + 1) = 0x78#8 then 2 else 0) :
    parseHex (s.memRead a n) = parseDigits hexVal 16 p (s.memRead (a + p) (n - p)) := by
  rw [parseHex, State.hexPrefix_memRead, ← hp, State.drop_memRead]

/-- The hexadecimal digits of a source range, given one by one. -/
theorem State.map_hexVal_memRead {a n : Nat} {ds : List Nat} (hlen : ds.length = n)
    (hds : ∀ j < n, IsHexDigit (s.byteAt (a + j)) (ds.getD j 0)) : (s.memRead a n).map hexVal = ds.map some := by
  refine List.ext_getElem (by simp [hlen]) fun j hj _ => ?_
  have hjn : j < n := by simpa using hj
  have hd := (hexVal_eq_some_iff _ _).2 (hds j hjn)
  rw [List.getD_eq_getElem _ _ (hlen ▸ hjn)] at hd
  simpa [State.memRead] using hd

end parsing

section strings

/-- Settles O15: the search for a byte that is no binary digit, the capacity, and then the bytes from the last one on. -/
theorem fbinReadsABinaryString : Obligations.FbinReadsABinaryString := by
  intro s rd ra rb a n isDigit
  refine ⟨decode_rWord rfl rfl, fun hout => ?_, fun hin j hj hbad hfirst => ?_, fun hin hall hlong => ?_,
    fun hin hall hfits => ?_⟩
  · rw [exec, execFbin, State.fromSource_faulted hout]
  · rw [exec, execFbin, State.fromSource_in hin, State.findIdx?_memRead_eq_some fbin_bad_iff hj hbad hfirst]
    exact State.raise_eq_faulted ..
  · rw [exec, execFbin, State.fromSource_in hin, State.findIdx?_memRead_eq_none fbin_bad_iff hall]
    exact State.inCapacity_faulted hlong _
  · rw [exec, execFbin, State.fromSource_in hin, State.findIdx?_memRead_eq_none fbin_bad_iff hall,
      State.reverse_memRead, List.map_map]
    exact State.inCapacity_writeResult hfits ..

/-- Settles O17: as for FBIN, with the bytes 0 and 1 and the first byte at index 0. -/
theorem ldbitsReadsOneByteForEachBit : Obligations.LdbitsReadsOneByteForEachBit := by
  intro s rd ra rb a n isBit
  refine ⟨decode_rWord rfl rfl, fun hout => ?_, fun hin j hj hbad hfirst => ?_, fun hin hall hlong => ?_,
    fun hin hall hfits => ?_⟩
  · rw [exec, execLdbits, State.fromSource_faulted hout]
  · rw [exec, execLdbits, State.fromSource_in hin, State.findIdx?_memRead_eq_some ldbits_bad_iff hj hbad hfirst]
    exact State.raise_eq_faulted ..
  · rw [exec, execLdbits, State.fromSource_in hin, State.findIdx?_memRead_eq_none ldbits_bad_iff hall]
    exact State.inCapacity_faulted hlong _
  · rw [exec, execLdbits, State.fromSource_in hin, State.findIdx?_memRead_eq_none ldbits_bad_iff hall, State.memRead,
      List.map_map]
    exact State.inCapacity_writeResult hfits ..

/-- Settles O20: the range, the digits and the domain of the value, in this order. -/
theorem fdecReadsADecimalString : Obligations.FdecReadsADecimalString := by
  intro s rd ra rb a n isDigit value
  refine ⟨decode_rWord rfl rfl, fun hout => ?_, fun hn => ?_, fun hin j hj hbad hfirst => ?_,
    fun hin hn hall hlarge => ?_, fun hin hn hall hfits => ?_⟩
  · rw [exec, execFdec, State.fromSource_faulted hout]
  · refine exec_fdec_of_error (.inl hn) ?_
    rw [show s.xNat rb = 0 from hn]
    exact parseDigits_nil 10 0
  · refine exec_fdec_of_error hin ((parseDigits_eq_error ?_ 10 0).trans (by rw [Nat.zero_add]))
    exact State.findIdx?_memRead_eq_some isNone_decVal hj hbad hfirst
  · rw [exec_fdec_of_ok hin (State.parseDec_memRead_eq_ok hn hall)]
    exact State.inDomain_faulted hlarge _
  · rw [exec_fdec_of_ok hin (State.parseDec_memRead_eq_ok hn hall)]
    exact State.inDomain_writeResult hfits rd

/-- Settles O21: as for FDEC, on the bytes after a leading `0x`, whose index 0 is index p of the string. -/
theorem fhexReadsAHexadecimalString : Obligations.FhexReadsAHexadecimalString := by
  intro s rd ra rb a n p
  have hparse : parseHex (s.memRead a n) = parseDigits hexVal 16 p (s.memRead (a + p) (n - p)) :=
    State.parseHex_memRead rfl
  refine ⟨decode_rWord rfl rfl, fun hout => ?_, fun hin hpn => ?_, fun hin j hpj hj hbad hfirst => ?_,
    fun hin hpn ds hlen hds => ?_⟩
  · rw [exec, execFhex, State.fromSource_faulted hout]
  · refine exec_fhex_of_error hin (hparse.trans ?_)
    rw [hpn, Nat.sub_self]
    exact parseDigits_nil 16 n
  · obtain ⟨i, rfl⟩ := Nat.exists_eq_add_of_le hpj
    refine exec_fhex_of_error hin (hparse.trans (parseDigits_eq_error ?_ 16 p))
    refine State.findIdx?_memRead_eq_some isNone_hexVal (by omega) ?_ fun k hk => ?_
    · rw [Nat.add_assoc]
      exact not_exists.2 hbad
    · rw [Nat.add_assoc]
      exact hfirst (p + k) (Nat.le_add_right p k) (Nat.add_lt_add_left hk p)
  · have hne : s.memRead (a + p) (n - p) ≠ [] :=
      List.ne_nil_of_length_pos (by rw [State.length_memRead]; exact Nat.sub_pos_of_lt hpn)
    have hok := hparse.trans (parseDigits_eq_ok hne (State.map_hexVal_memRead hlen hds) 16 p)
    rw [exec_fhex_of_ok hin hok]
    exact ⟨fun hlarge => State.inDomain_faulted hlarge _, fun hfits => State.inDomain_writeResult hfits rd⟩

end strings

section buffers

/-- Settles O18: the elements of the range, each as its octet-aligned bits, behind the check of their total length. -/
theorem fintsConcatenatesOctetAlignedElements : Obligations.FintsConcatenatesOctetAlignedElements := by
  intro s rd ra rb a n bits
  have hbits : ((chunks 4 (s.memRead a (4 * n))).flatMap fun e => octetDigits (leNat e)) = bits := by
    simp only [State.chunks_memRead, List.flatMap_map, State.leNat_memRead_four, octetDigits_eq_octetBits]
    rfl
  refine ⟨decode_rWord rfl rfl, fun hout => ?_, fun hin hlong => ?_, fun hin hfits => ?_⟩
  · rw [exec, execFints, State.fromSource_faulted hout]
  · rw [exec, execFints, State.fromSource_in hin, hbits]
    exact State.inCapacity_faulted hlong _
  · rw [exec, execFints, State.fromSource_in hin, hbits]
    exact State.inCapacity_writeResult hfits ..

/-- Settles O19: the search for an offset that does not fit, and then the loop of `foldl_setOffset_nil`. -/
theorem foffSetsTheListedBits : Obligations.FoffSetsTheListedBits := by
  intro s rd ra rb a n offs
  have hoffs : (chunks 4 (s.memRead a (4 * n))).map leNat = offs := by
    simp only [State.chunks_memRead, List.map_map, Function.comp_def, State.leNat_memRead_four]
    rfl
  refine ⟨decode_rWord rfl rfl, fun hout => ?_, fun hin k hk hlarge hfirst => ?_, fun hin hall => ?_⟩
  · rw [exec, execFoff, State.fromSource_faulted hout]
  · have hfind : offs.find? (fun o => s.cfg.maxLen ≤ o) = some offs[k] := by
      refine List.find?_eq_some_iff_getElem.2 ⟨decide_eq_true hlarge, k, hk, rfl, fun j hj => ?_⟩
      have hlt := hfirst offs[j] (List.mem_take_iff_getElem.2 ⟨j, by omega, rfl⟩)
      rw [decide_eq_false (Nat.not_le.2 hlt), Bool.not_false]
    rw [exec, execFoff, State.fromSource_in hin]
    simp only [hoffs, hfind]
    exact State.raise_eq_faulted ..
  · have hfind : offs.find? (fun o => s.cfg.maxLen ≤ o) = none :=
      List.find?_eq_none.2 fun o ho => by simpa using hall o ho
    rw [exec, execFoff, State.fromSource_in hin]
    simp only [hoffs, hfind, foldl_setOffset_nil]
    exact State.writeResult_complete ..

/-- Settles O23: each byte is a row of eight bits, so index i is bit 7 - i % 8 of byte i / 8. -/
theorem fbytesReadsAByteBuffer : Obligations.FbytesReadsAByteBuffer := by
  intro s rd ra rb a n
  have hbits : ((s.memRead a n).flatMap fun b => octetDigits b.toNat) =
      (List.range (8 * n)).map fun i => (s.byteAt (a + i / 8)).toNat.testBit (7 - i % 8) := by
    simp only [State.memRead, List.flatMap_map, octetDigits_byte]
    exact flatMap_range_map_range (by decide) (fun k j => (s.byteAt (a + k)).toNat.testBit (7 - j)) n
  refine ⟨decode_rWord rfl rfl, fun hout => ?_, fun hin hlong => ?_, fun hin hfits => ?_⟩
  · rw [exec, execFbytes, State.fromSource_faulted hout]
  · rw [exec, execFbytes, State.fromSource_in hin]
    exact State.inCapacity_faulted hlong _
  · rw [exec, execFbytes, State.fromSource_in hin, hbits]
    exact State.inCapacity_writeResult hfits ..

end buffers

end Sys2Proof.Machine
end

section
/-! SUPPORT. The codec's definitions as inverses of each other, which the exports and the round trips of 42_codec_export.md R209 rest
on: the value of a bit sequence and its bits, bytes and groups of eight bits, elements and their four bytes, a number and its
hexadecimal text. -/

namespace Sys2Proof.Machine

open Sys2Proof.Claims

section values

theorem toNumber_eq_valueOf (l : List Bool) : toNumber l = valueOf l := toNumber_eq_ofDigits l

/-- Bit i of the value is element i, an index beyond the length reading as 0 (42_codec_export.md R200). -/
theorem testBit_valueOf (l : List Bool) (i : Nat) : (valueOf l).testBit i = l.getD i false := by
  induction l generalizing i with
  | nil => exact Nat.zero_testBit i
  | cons b l ih =>
    have hcons : valueOf (b :: l) = Nat.bit b (valueOf l) := by
      rw [Nat.bit_val, valueOf, List.map_cons, Nat.ofDigits_cons, Nat.add_comm]
      rfl
    cases i with
    | zero => rw [hcons, Nat.testBit_bit_zero, List.getD_cons_zero]
    | succ i => rw [hcons, Nat.testBit_bit_succ, ih, List.getD_cons_succ]

theorem testBit_valueOf_eq_true_iff (l : List Bool) (i : Nat) : (valueOf l).testBit i = true ↔ l[i]? = some true := by
  rw [testBit_valueOf, List.getD_eq_getElem?_getD]
  cases l[i]? <;> simp

/-- A value is determined by its bits, whatever zeros are at the high end. -/
theorem valueOf_eq_of_getD {l : List Bool} {v : Nat} (h : ∀ i, l.getD i false = v.testBit i) : valueOf l = v :=
  Nat.eq_of_testBit_eq fun i => by rw [testBit_valueOf, h]

/-- A zero at the high end does not change the value. -/
theorem valueOf_append_false (l : List Bool) : valueOf (l ++ [false]) = valueOf l :=
  valueOf_eq_of_getD fun i => by
    have hzero := getD_append_zeros l 0 i
    rw [List.replicate_zero, List.append_nil] at hzero
    rw [testBit_valueOf, hzero]
    exact getD_append_zeros l 1 i

theorem valueOf_lt (l : List Bool) : valueOf l < 2 ^ l.length := by
  have hdigit : ∀ d ∈ l.map Bool.toNat, d < 2 := by
    intro d hd
    obtain ⟨b, -, rfl⟩ := List.mem_map.1 hd
    exact b.toNat_lt
  rw [← List.length_map (as := l) Bool.toNat]
  exact Nat.ofDigits_lt_base_pow_length (by decide) hdigit

/-- The size of a number bounds the indices of its one bits, and nothing smaller does. -/
theorem size_le_iff_testBit {v n : Nat} : Nat.size v ≤ n ↔ ∀ i, v.testBit i = true → i < n := by
  rw [Nat.size_le]
  constructor
  · intro hv i hi
    exact (Nat.pow_lt_pow_iff_right (by decide)).1 ((Nat.ge_two_pow_of_testBit hi).trans_lt hv)
  · intro h
    refine Nat.lt_pow_two_of_testBit v fun i hi => Bool.eq_false_iff.2 fun hbit => ?_
    exact Nat.not_lt.2 hi (h i hbit)

theorem valueOf_bitsOf (v : Nat) : valueOf (bitsOf v) = v := by
  rw [← lsbDigits_eq_bitsOf, ← toNumber_eq_valueOf, toNumber_lsbDigits]

/-- The bits of the value are the sequence without its zeros at the high end (42_codec_export.md R209). -/
theorem bitsOf_valueOf (l : List Bool) : bitsOf (valueOf l) = trimmed l := by
  induction l using List.reverseRecOn with
  | nil => rfl
  | append_singleton l b ih =>
    cases b with
    | false =>
      rw [valueOf_append_false, ih]
      exact (List.rdropWhile_concat_pos _ l false rfl).symm
    | true =>
      have hlast : (valueOf (l ++ [true])).testBit l.length = true := by rw [testBit_valueOf]; simp
      have hsize : (l ++ [true]).length = Nat.size (valueOf (l ++ [true])) :=
        le_antisymm (by rw [List.length_append]; exact size_le_iff_testBit.1 le_rfl _ hlast) (Nat.size_le.2 (valueOf_lt _))
      rw [trimmed, List.rdropWhile_concat_neg _ _ _ (by decide)]
      exact (eq_map_range_of_getD hsize fun i _ => (testBit_valueOf _ i).symm).symm

end values

section rows

variable {α : Type} {n : Nat}

/-- A first group that is full is the first one of `chunks`. -/
theorem chunks_append (hn : 0 < n) {row : List α} (hrow : row.length = n) (s : List α) :
    chunks n (row ++ s) = row :: chunks n s := by
  have hcount : ((row ++ s).length + n - 1) / n = (s.length + n - 1) / n + 1 := by
    rw [← Nat.add_div_right _ hn, List.length_append, hrow]
    congr 1
    omega
  rw [chunks_eq hn, chunks_eq hn, hcount, List.range_succ_eq_map, List.map_cons, List.map_map, Nat.mul_zero,
    List.drop_zero, List.take_left' hrow]
  congr 1
  refine List.map_congr_left fun k _ => ?_
  rw [Function.comp_apply, Nat.mul_succ, Nat.add_comm, ← List.drop_drop, List.drop_left' hrow]

/-- Rows of `n` elements each, one after the other, are cut into these rows. -/
theorem chunks_flatten (hn : 0 < n) {rows : List (List α)} (hrows : ∀ row ∈ rows, row.length = n) :
    chunks n rows.flatten = rows := by
  induction rows with
  | nil => rfl
  | cons row rows ih =>
    rw [List.flatten_cons, chunks_append hn (hrows row (List.mem_cons_self ..)),
      ih fun r hr => hrows r (List.mem_cons_of_mem _ hr)]

/-- Cutting a sequence into groups loses nothing. -/
theorem flatten_chunks (hn : 0 < n) (s : List α) : (chunks n s).flatten = s := by
  have H : ∀ (fuel : Nat) (s : List α), s.length ≤ fuel → (chunkLoop n fuel s).flatten = s := by
    intro fuel
    induction fuel with
    | zero =>
      intro s hs
      exact (List.eq_nil_of_length_eq_zero (Nat.le_zero.1 hs)).symm
    | succ fuel ih =>
      intro s hs
      cases s with
      | nil => rfl
      | cons x s =>
        have hdrop : ((x :: s).drop n).length ≤ fuel := by
          rw [List.length_cons] at hs
          rw [List.length_drop, List.length_cons]
          omega
        rw [chunkLoop, List.isEmpty_cons, if_neg (by decide), List.flatten_cons, ih _ hdrop, List.take_append_drop]
  exact H s.length s le_rfl

/-- Where the length is a multiple of `n`, every group is full. -/
theorem length_of_mem_chunks (hn : 0 < n) {s row : List α} (hs : s.length % n = 0) (hrow : row ∈ chunks n s) :
    row.length = n := by
  obtain ⟨q, hq⟩ := Nat.dvd_of_mod_eq_zero hs
  rw [chunks_eq hn, hq, Nat.add_sub_assoc hn, Nat.mul_add_div hn, Nat.div_eq_of_lt (by omega)] at hrow
  obtain ⟨k, hk, rfl⟩ := List.mem_map.1 hrow
  have hk : n * (k + 1) ≤ n * q := Nat.mul_le_mul_left n (List.mem_range.1 hk)
  rw [List.length_take, List.length_drop, hq]
  rw [Nat.mul_succ] at hk
  omega

end rows

section bytes

/-- A group's digits are read most significant first (42_codec_export.md R201). -/
theorem groupValue_eq_valueOf (g : List Bool) : groupValue g = valueOf g.reverse := by
  rw [groupValue_eq_ofDigits, valueOf, List.map_reverse]

/-- A byte's octet-aligned digits are a group with the byte as its value. -/
theorem groupValue_octetDigits (v : Nat) : groupValue (octetDigits v) = v := by
  rw [groupValue_eq_valueOf, octetDigits, List.reverse_reverse]
  exact valueOf_eq_of_getD fun i => by rw [getD_octetAlign, getD_lsbDigits]

/-- A group of eight bits is the octet-aligned digits of its value. -/
theorem octetDigits_groupValue {g : List Bool} (hg : g.length = 8) :
    octetDigits (BitVec.ofNat 8 (groupValue g)).toNat = g := by
  have hlt : groupValue g < 2 ^ 8 := by
    have hlt := valueOf_lt g.reverse
    rwa [List.length_reverse, hg, ← groupValue_eq_valueOf] at hlt
  rw [octetDigits_byte, BitVec.toNat_ofNat, Nat.mod_eq_of_lt hlt]
  refine (eq_map_range_of_getD hg fun i hi => ?_).symm
  rw [groupValue_eq_valueOf, testBit_valueOf, List.getD_reverse _ (by omega), hg]
  congr 1
  omega

/-- TOBYTES after FBYTES gives the bytes back (42_codec_export.md R209). -/
theorem byteGroups_flatMap_octetDigits (bs : List Byte) : byteGroups (bs.flatMap fun b => octetDigits b.toNat) = bs := by
  have hrows : ∀ row ∈ bs.map fun b => octetDigits b.toNat, row.length = 8 := by
    intro row hrow
    obtain ⟨b, -, rfl⟩ := List.mem_map.1 hrow
    exact length_octetDigits_byte b
  rw [byteGroups, List.flatMap_def, chunks_flatten (by decide) hrows, List.map_map]
  refine (List.map_congr_left fun b _ => ?_).trans (List.map_id bs)
  rw [Function.comp_apply, groupValue_octetDigits, BitVec.ofNat_toNat, BitVec.setWidth_eq, id]

/-- FBYTES after TOBYTES gives a vector of whole bytes back (42_codec_export.md R209). -/
theorem flatMap_octetDigits_byteGroups {l : List Bool} (hl : l.length % 8 = 0) :
    ((byteGroups l).flatMap fun b => octetDigits b.toNat) = l := by
  have hrows : ∀ g ∈ chunks 8 l, octetDigits (BitVec.ofNat 8 (groupValue g)).toNat = id g := fun g hg =>
    octetDigits_groupValue (length_of_mem_chunks (by decide) hl hg)
  rw [byteGroups, List.flatMap_map, List.flatMap_def, List.map_congr_left hrows, List.map_id, flatten_chunks (by decide)]

/-- ReadU32 after WriteU32 (20_memory.md R62). -/
theorem leNat_u32Bytes {v : Nat} (hv : v < 2 ^ 32) : leNat (u32Bytes v) = v := by
  simp only [leNat, u32Bytes, List.foldr_cons, List.foldr_nil, BitVec.toNat_ofNat]
  omega

theorem length_flatMap_u32Bytes (offs : List Nat) : (offs.flatMap u32Bytes).length = 4 * offs.length := by
  induction offs with
  | nil => rfl
  | cons o offs ih =>
    rw [List.flatMap_cons, List.length_append, ih, List.length_cons, Nat.mul_succ, Nat.add_comm]
    rfl

/-- The elements of a buffer of 32-bit elements (20_memory.md R63). -/
theorem map_leNat_chunks_flatMap_u32Bytes {offs : List Nat} (hoffs : ∀ o ∈ offs, o < 2 ^ 32) :
    (chunks 4 (offs.flatMap u32Bytes)).map leNat = offs := by
  have hrows : ∀ row ∈ offs.map u32Bytes, row.length = 4 := by
    intro row hrow
    obtain ⟨o, -, rfl⟩ := List.mem_map.1 hrow
    rfl
  rw [List.flatMap_def, chunks_flatten (by decide) hrows, List.map_map]
  exact (List.map_congr_left fun o ho => leNat_u32Bytes (hoffs o ho)).trans (List.map_id offs)

end bytes

section offsetLists

/-- The offsets of the set bits, as the indices that hold a 1 (42_codec_export.md R203). -/
theorem offsetsFrom_eq_filter (l : List Bool) :
    offsetsFrom 0 l = (List.range l.length).filter fun i => l[i]? == some true := by
  refine (offsetsFrom_pairwise 0 l).eq_of_mem_iff (List.pairwise_lt_range.filter _) fun o => ?_
  rw [mem_offsetsFrom, List.mem_filter, List.mem_range, beq_iff_eq, Nat.sub_zero]
  constructor
  · rintro ⟨-, ho⟩
    exact ⟨(List.getElem?_eq_some_iff.1 ho).1, ho⟩
  · rintro ⟨-, ho⟩
    exact ⟨Nat.zero_le o, ho⟩

theorem length_offsetsFrom (i : Nat) (l : List Bool) : (offsetsFrom i l).length = l.count true := by
  induction l generalizing i with
  | nil => rfl
  | cons b l ih => cases b <;> simp [offsetsFrom, ih]

theorem mem_offsetsFrom_zero {l : List Bool} {o : Nat} : o ∈ offsetsFrom 0 l ↔ l[o]? = some true := by
  rw [mem_offsetsFrom, Nat.sub_zero, and_iff_right (Nat.zero_le o)]

theorem lt_length_of_mem_offsetsFrom {l : List Bool} {o : Nat} (ho : o ∈ offsetsFrom 0 l) : o < l.length :=
  (List.getElem?_eq_some_iff.1 (mem_offsetsFrom_zero.1 ho)).1

/-- The least bound above every listed offset. -/
theorem foldr_max_succ_le_iff (offs : List Nat) (n : Nat) :
    (offs.map (· + 1)).foldr max 0 ≤ n ↔ ∀ o ∈ offs, o < n := by
  induction offs with
  | nil => simp
  | cons o offs ih => rw [List.map_cons, List.foldr_cons, max_le_iff, ih, List.forall_mem_cons, Nat.succ_le_iff]

/-- FOFF after TOOFF: the highest set bit gives the length, so the zeros above it are lost (42_codec_export.md R209). -/
theorem foldl_setOffset_offsetsFrom (l : List Bool) : (offsetsFrom 0 l).foldl setOffset [] = trimmed l := by
  have hsize : ((offsetsFrom 0 l).map (· + 1)).foldr max 0 = Nat.size (valueOf l) := eq_of_forall_ge_iff fun n => by
    rw [foldr_max_succ_le_iff, size_le_iff_testBit]
    exact forall_congr' fun o => imp_congr_left (mem_offsetsFrom_zero.trans (testBit_valueOf_eq_true_iff l o).symm)
  rw [foldl_setOffset_nil, ← bitsOf_valueOf, bitsOf, hsize]
  refine List.map_congr_left fun i _ => Bool.eq_iff_iff.2 ?_
  rw [decide_eq_true_iff, mem_offsetsFrom_zero, testBit_valueOf_eq_true_iff]

end offsetLists

section text

/-- The bits of a display string, read from its last character on (41_codec_import.md R157, 42_codec_export.md R207). -/
theorem map_eq_one_bitChar (l : List Bool) : (l.map bitChar).map (· == 0x31#8) = l := by
  rw [List.map_map]
  exact (List.map_congr_left fun b _ => by cases b <;> rfl).trans (List.map_id l)

theorem map_eq_one_bitByte (l : List Bool) : (l.map bitByte).map (· == 1#8) = l := by
  rw [List.map_map]
  exact (List.map_congr_left fun b _ => by cases b <;> rfl).trans (List.map_id l)

/-- The hexadecimal digits of a number, most significant first, "0" for 0 (42_codec_export.md R202). -/
def hexDigits (v : Nat) : List Nat := if v = 0 then [0] else (Nat.digits 16 v).reverse

theorem hexText_eq_map (v : Nat) : hexText v = (hexDigits v).map hexChar := by
  unfold hexText hexDigits
  split
  · rfl
  · rw [digitsOf_eq_digits (by decide)]

theorem hexDigits_lt {v d : Nat} (hd : d ∈ hexDigits v) : d < 16 := by
  unfold hexDigits at hd
  split at hd
  · rw [List.mem_singleton.1 hd]; decide
  · exact Nat.digits_lt_base (by decide) (List.mem_reverse.1 hd)

theorem hexDigits_ne_nil (v : Nat) : hexDigits v ≠ [] := by
  unfold hexDigits
  split
  · exact List.cons_ne_nil 0 []
  · rwa [Ne, List.reverse_eq_nil_iff, Nat.digits_eq_nil_iff_eq_zero]

theorem ofDigits_hexDigits (v : Nat) : Nat.ofDigits 16 (hexDigits v).reverse = v := by
  unfold hexDigits
  split
  case isTrue h => rw [h]; rfl
  case isFalse => rw [List.reverse_reverse, Nat.ofDigits_digits]

/-- The text of a number of up to 64 bits has at most 16 characters. -/
theorem length_hexText_le {v : Nat} (hv : v < 2 ^ 64) : (hexText v).length ≤ 16 := by
  rw [hexText_eq_map, List.length_map, hexDigits]
  split
  · decide
  · rw [List.length_reverse, Nat.digits_length_le_iff (by decide)]
    exact hv

/-- The character of a hexadecimal digit is read as that digit (41_codec_import.md R154). -/
theorem hexVal_hexChar {d : Nat} (hd : d < 16) : hexVal (hexChar d) = some d := by
  rw [hexVal_eq_some_iff, IsHexDigit, hexChar]
  split <;> rw [BitVec.toNat_ofNat] <;> omega

/-- Text of hexadecimal digits does not start with `0x`, because `x` is no digit (41_codec_import.md R154). -/
theorem hexPrefix_of_digits {bs : List Byte} (h : ∀ b ∈ bs, ∃ d, hexVal b = some d) : hexPrefix bs = 0 := by
  refine if_neg fun hprefix => ?_
  have hx : 0x78#8 ∈ bs.take 2 := by rw [hprefix]; decide
  obtain ⟨d, hd⟩ := h _ (List.mem_of_mem_take hx)
  cases hd

/-- ParseHex of HexText gives the number back (42_codec_export.md R209). -/
theorem parseHex_hexText (v : Nat) : parseHex (hexText v) = .ok v := by
  have hread : (hexText v).map hexVal = (hexDigits v).map some := by
    rw [hexText_eq_map, List.map_map]
    exact List.map_congr_left fun d hd => hexVal_hexChar (hexDigits_lt hd)
  have hprefix : hexPrefix (hexText v) = 0 := hexPrefix_of_digits fun b hb => by
    obtain ⟨d, -, hd⟩ := List.mem_map.1 (hread ▸ List.mem_map_of_mem hb)
    exact ⟨d, hd.symm⟩
  have hne : hexText v ≠ [] := by
    rw [hexText_eq_map, Ne, List.map_eq_nil_iff]
    exact hexDigits_ne_nil v
  rw [parseHex, hprefix, List.drop_zero, parseDigits_eq_ok hne hread, ofDigits_hexDigits]

end text

end Sys2Proof.Machine
end

section
/-! SUPPORT. The codec commands that deliver (42_codec_export.md R203 to R208): the obligations about them. Each is the delivery of
`State.toDest`, said once, and the bytes that the command delivers, in the library's terms. -/

namespace Sys2Proof.Machine

open Sys2Proof.Claims

section delivery

variable {s : State}

/-- What a delivery to DMEM leaves: the count in rd, PC advanced, and the stored bytes at an address read before rd is written. -/
theorem exported_memWrite (s : State) (rd : XIx) (a : Nat) (bs : List Byte) (n : Nat) :
    ∃ t, ((s.memWrite a bs).setX rd n).complete = .next t ∧ Exported s t rd a bs n :=
  ⟨_, rfl, rfl, fun b => s.byteAt_memWrite a bs b⟩

/-- The two outcomes of delivering `bs`, `m` bytes long (42_codec_export.md, common properties). -/
theorem State.toDest_outcomes {rd : XIx} {a n m : Nat} {bs : List Byte} (hlen : bs.length = m) :
    (¬InRange s.cfg a m → s.toDest rd a bs n = .next (faulted s .memRange a)) ∧
    (InRange s.cfg a m → ∃ t, s.toDest rd a bs n = .next t ∧ Exported s t rd a bs n) := by
  subst hlen
  refine ⟨fun hout => ?_, fun hin => ?_⟩
  · rw [State.toDest_out hout, State.raise_eq_faulted]
  · rw [State.toDest_in hin]
    exact exported_memWrite s rd a bs n

end delivery

section exports

/-- A choice by whether index `i` holds a 1 is a choice by the bit at `i`. -/
theorem bit_choice {α : Type} {l : List Bool} {i : Nat} (hi : i < l.length) (a b : α) :
    (if l[i]? = some true then a else b) = bif l[i] then a else b := by
  rw [List.getElem?_eq_getElem hi]
  cases l[i] <;> rfl

/-- The display string, character by character, the highest index first (42_codec_export.md R207). -/
theorem reverse_map_bitChar (l : List Bool) :
    l.reverse.map bitChar =
      (List.range l.length).map fun j => if l[l.length - 1 - j]? = some true then 0x31#8 else 0x30#8 := by
  refine List.ext_getElem (by simp) fun j hj _ => ?_
  have hj : j < l.length := by simpa using hj
  rw [List.getElem_map, List.getElem_map, List.getElem_range, List.getElem_reverse, bit_choice (by omega)]
  cases l[l.length - 1 - j] <;> rfl

/-- The raw bits, byte by byte (42_codec_export.md R208). -/
theorem map_bitByte (l : List Bool) :
    l.map bitByte = (List.range l.length).map fun j => if l[j]? = some true then 1#8 else 0#8 := by
  refine List.ext_getElem (by simp) fun j hj _ => ?_
  have hj : j < l.length := by simpa using hj
  rw [List.getElem_map, List.getElem_map, List.getElem_range, bit_choice hj]
  cases l[j] <;> rfl

/-- ByteGroups, group by group (42_codec_export.md R201). -/
theorem byteGroups_eq_map (l : List Bool) :
    byteGroups l = (List.range ((l.length + 7) / 8)).map fun k =>
      BitVec.ofNat 8 (Nat.ofDigits 2 (((l.drop (8 * k)).take 8).reverse.map Bool.toNat)) := by
  rw [byteGroups, chunks_eq (by decide), List.map_map]
  refine List.map_congr_left fun k _ => ?_
  rw [Function.comp_apply, groupValue_eq_valueOf, valueOf]

/-- The character of a digit, the letters counted on from 0x61 - 10 (42_codec_export.md R202). -/
theorem hexChar_eq (d : Nat) : hexChar d = BitVec.ofNat 8 (if d < 10 then 0x30 + d else 0x61 + d - 10) := by
  rw [hexChar]
  congr 1
  split <;> omega

/-- Settles O24: the listed offsets are the indices that hold a 1, four bytes each. -/
theorem tooffWritesTheOffsetsOfSetBits : Obligations.TooffWritesTheOffsetsOfSetBits := by
  intro s rd ra rb a offs bs
  have hoffs : offsetsFrom 0 (s.v.get ra).bits = offs := offsetsFrom_eq_filter _
  have hexec : exec (.tooff rd ra rb) s = s.toDest rd a bs offs.length := by
    rw [exec, execTooff, hoffs]
    rfl
  rw [hexec]
  exact ⟨decode_rWord rfl rfl, State.toDest_outcomes (length_flatMap_u32Bytes offs)⟩

/-- Settles O25: the bytes are `byteGroups`, as many as the groups that `length_byteGroups` counts. -/
theorem tobytesWritesByteGroups : Obligations.TobytesWritesByteGroups := by
  intro s rd ra rb a n bs
  have hexec : exec (.tobytes rd ra rb) s = s.toDest rd a bs n := by
    rw [exec, execTobytes, length_byteGroups, byteGroups_eq_map]
  rw [hexec]
  exact ⟨decode_rWord rfl rfl, State.toDest_outcomes (by rw [List.length_map, List.length_range])⟩

/-- Settles O26: the value leaves the numeric domain exactly where `size_le_iff_testBit` finds a bit at NUMBITS or above. -/
theorem tonumGivesThePositionalValue : Obligations.TonumGivesThePositionalValue := by
  intro s rd ra
  refine ⟨decode_rWord rfl rfl, fun hfits => ?_, fun hlarge => ?_, ?_⟩
  · rw [exec, execTonum, toNumber_eq_valueOf, State.inDomain_in hfits, State.setX_complete]
  · rw [exec, execTonum, toNumber_eq_valueOf, State.inDomain_faulted hlarge]
  · rw [← Nat.not_lt, ← Nat.size_le, size_le_iff_testBit]
    simp only [testBit_valueOf_eq_true_iff, not_forall, Nat.not_lt, exists_prop, and_comm]

/-- Settles O27: the domain of the value is checked first, and then its text is delivered. -/
theorem tohexWritesHexadecimalText : Obligations.TohexWritesHexadecimalText := by
  intro s rd ra rb a v text
  have htext : hexText v = text := by
    rw [hexText, digitsOf_eq_digits (by decide), funext hexChar_eq]
  have hexec (hfits : v < 2 ^ s.cfg.numBits) : exec (.tohex rd ra rb) s = s.toDest rd a text text.length := by
    rw [exec, execTohex, toNumber_eq_valueOf, State.inDomain_in hfits, ← htext]
  refine ⟨decode_rWord rfl rfl, fun hlarge => ?_, fun hfits => ?_, fun hfits => ?_⟩
  · rw [exec, execTohex, toNumber_eq_valueOf, State.inDomain_faulted hlarge]
  · rw [hexec hfits]
    exact (State.toDest_outcomes rfl).1
  · rw [hexec hfits]
    exact (State.toDest_outcomes rfl).2

/-- Settles O28: the text is the reversed bits as characters. -/
theorem tostrWritesTheDisplayString : Obligations.TostrWritesTheDisplayString := by
  intro s rd ra rb a n text
  have hexec : exec (.tostr rd ra rb) s = s.toDest rd a text n := by
    rw [exec, execTostr, reverse_map_bitChar, List.length_map, List.length_range]
  rw [hexec]
  exact ⟨decode_rWord rfl rfl, State.toDest_outcomes (by rw [List.length_map, List.length_range])⟩

/-- Settles O29: the bytes are the bits in their order. -/
theorem tobitsWritesOneByteForEachBit : Obligations.TobitsWritesOneByteForEachBit := by
  intro s rd ra rb a n bs
  have hexec : exec (.tobits rd ra rb) s = s.toDest rd a bs n := by
    rw [exec, execTobits, map_bitByte, List.length_map, List.length_range]
  rw [hexec]
  exact ⟨decode_rWord rfl rfl, State.toDest_outcomes (by rw [List.length_map, List.length_range])⟩

end exports

end Sys2Proof.Machine
end

section
/-! SUPPORT. The round trips of 42_codec_export.md R209: what the importing command finds after a delivery (`State.Holds`), what it
then writes, and the obligations that put the two commands together. -/

namespace Sys2Proof.Machine

open Sys2Proof.Claims

section sequences

theorem execSeq_cons {i : Instr} {s t : State} (h : exec i s = .next t) (is : List Instr) :
    execSeq (i :: is) s = execSeq is t := by
  rw [execSeq, h]

/-- Two commands that complete, one after the other. -/
theorem execSeq_pair {i j : Instr} {s t u : State} (hi : exec i s = .next t) (hj : exec j t = .next u) :
    execSeq [i, j] s = .next u := by
  rw [execSeq_cons hi, execSeq_cons hj, execSeq]

theorem execSeq_append {is : List Instr} {s t : State} (h : execSeq is s = .next t) (js : List Instr) :
    execSeq (is ++ js) s = execSeq js t := by
  induction is generalizing s with
  | nil => cases h; rfl
  | cons i is ih =>
    rw [execSeq] at h
    rw [List.cons_append]
    split at h
    case h_1 u hu => rw [execSeq_cons hu, ih h]
    case h_2 => cases h
    case h_3 => cases h

end sequences

section sources

/-- The bytes `bs` stand in DMEM from the address in X[b] up, and X[c] holds the count `n`: a source to read back. -/
structure State.Holds (s : State) (b c : XIx) (bs : List Byte) (n : Nat) : Prop where
  inRange : InRange s.cfg (s.xNat b) bs.length
  bytes : s.memRead (s.xNat b) bs.length = bs
  count : s.xNat c = n

variable {s t : State} {b c : XIx} {e : VIx} {bs : List Byte} {n : Nat}

/-- Every range inside DMEM holds the bytes that are read there. -/
theorem State.holds_memRead (hin : InRange s.cfg (s.xNat b) (s.xNat c)) :
    s.Holds b c (s.memRead (s.xNat b) (s.xNat c)) (s.xNat c) :=
  ⟨by rwa [State.length_memRead], by rw [State.length_memRead], rfl⟩

/-- After a delivery its destination is a source, where the count does not overwrite the address. -/
theorem holds_of_exported (h : Exported s t c (s.xNat b) bs n) (hin : InRange s.cfg (s.xNat b) bs.length) (hcb : c ≠ b)
    (hn : n < 2 ^ 64) : t.Holds b c bs n := by
  obtain ⟨hstate, hbytes⟩ := h
  have hcfg : t.cfg = s.cfg := by rw [hstate]
  have haddr : t.xNat b = s.xNat b := by rw [hstate, State.xNat, File8.get_set_ne _ _ hcb.symm, State.xNat]
  refine ⟨by rwa [hcfg, haddr], ?_, ?_⟩
  · refine List.ext_getElem (State.length_memRead ..) fun j _ hj => ?_
    have hrange : s.xNat b ≤ s.xNat b + j ∧ s.xNat b + j < s.xNat b + bs.length := by omega
    simp only [State.memRead, List.getElem_map, List.getElem_range, haddr, hbytes, if_pos hrange, Nat.add_sub_cancel_left]
    exact List.getD_eq_getElem _ _ hj
  · rw [hstate, State.xNat, File8.get_set_same, BitVec.toNat_ofNat, Nat.mod_eq_of_lt hn]

theorem State.Holds.fromSource (h : s.Holds b c bs n) {m : Nat} (hm : m = bs.length) (use : List Byte → Result) :
    s.fromSource (s.xNat b) m use = use bs := by
  rw [hm, State.fromSource_in h.inRange, h.bytes]

/-- FBIN of a display string (41_codec_import.md R157). -/
theorem State.Holds.exec_fbin {l : List Bool} (h : s.Holds b c (l.reverse.map bitChar) l.length)
    (hfits : l.length ≤ s.cfg.maxLen) : exec (.fbin e b c) s = .next (wroteV s e l 0) := by
  have hdigits : (l.reverse.map bitChar).findIdx? (fun x => x != 0x30#8 && x != 0x31#8) = none := by
    refine List.findIdx?_eq_none_iff.2 fun x hx => ?_
    obtain ⟨bit, -, rfl⟩ := List.mem_map.1 hx
    cases bit <;> rfl
  rw [exec, execFbin, h.count, h.fromSource (by rw [List.length_map, List.length_reverse]), hdigits, ← List.map_reverse,
    List.reverse_reverse, map_eq_one_bitChar]
  exact State.inCapacity_writeResult hfits e l

/-- LDBITS of raw bits (41_codec_import.md R160). -/
theorem State.Holds.exec_ldbits {l : List Bool} (h : s.Holds b c (l.map bitByte) l.length)
    (hfits : l.length ≤ s.cfg.maxLen) : exec (.ldbits e b c) s = .next (wroteV s e l 0) := by
  have hbits : (l.map bitByte).findIdx? (fun x => 1 < x.toNat) = none := by
    refine List.findIdx?_eq_none_iff.2 fun x hx => ?_
    obtain ⟨bit, -, rfl⟩ := List.mem_map.1 hx
    cases bit <;> rfl
  rw [exec, execLdbits, h.count, h.fromSource (by rw [List.length_map]), hbits, map_eq_one_bitByte]
  exact State.inCapacity_writeResult hfits e l

/-- FBYTES of a byte buffer (41_codec_import.md R167). -/
theorem State.Holds.exec_fbytes (h : s.Holds b c bs bs.length) (hfits : 8 * bs.length ≤ s.cfg.maxLen) :
    exec (.fbytes e b c) s = .next (wroteV s e (bs.flatMap fun x => octetDigits x.toNat) 0) := by
  rw [exec, execFbytes, h.count, h.fromSource rfl]
  exact State.inCapacity_writeResult hfits ..

/-- FOFF of offsets below MAXLEN (41_codec_import.md R163). -/
theorem State.Holds.exec_foff {offs : List Nat} (h : s.Holds b c (offs.flatMap u32Bytes) offs.length)
    (hlegal : s.cfg.Legal) (hfits : ∀ o ∈ offs, o < s.cfg.maxLen) :
    exec (.foff e b c) s = .next (wroteV s e (offs.foldl setOffset []) 0) := by
  obtain ⟨-, -, hmax, -⟩ := hlegal
  have hread : (chunks 4 (offs.flatMap u32Bytes)).map leNat = offs :=
    map_leNat_chunks_flatMap_u32Bytes fun o ho => (hfits o ho).trans_le (by omega)
  have hfind : offs.find? (fun o => s.cfg.maxLen ≤ o) = none :=
    List.find?_eq_none.2 fun o ho => by simpa using hfits o ho
  rw [exec, execFoff, h.count, h.fromSource (length_flatMap_u32Bytes offs).symm]
  simp only [hread, hfind]
  exact State.writeResult_complete ..

/-- FHEX of the text of a number (41_codec_import.md R165). -/
theorem State.Holds.exec_fhex {v : Nat} (h : s.Holds b c (hexText v) (hexText v).length) (hfits : v < 2 ^ s.cfg.numBits) :
    exec (.fhex e b c) s = .next (wroteV s e (bitsOf v) 0) := by
  rw [exec, execFhex, h.count, h.fromSource rfl, parseHex_hexText]
  exact State.inDomain_writeResult hfits e

end sources

section pairs

variable {s : State} {i j : Instr} {b c : XIx} {d e : VIx} {bs : List Byte} {n : Nat} {l : List Bool}

/-- What a round trip of two commands leaves: the bits in V[e] with floor 0, FAULT as it was, and PC two commands further. -/
structure CameBack (s t : State) (e : VIx) (l : List Bool) : Prop where
  bits : t.v.get e = { bits := l, floor := 0 }
  fault : t.fault = s.fault
  pc : t.pc = s.pc + 8
  cfg : t.cfg = s.cfg

/-- A delivery to DMEM and a command that reads back what it left. -/
theorem exists_cameBack (hexport : exec i s = s.toDest c (s.xNat b) bs n) (hin : InRange s.cfg (s.xNat b) bs.length)
    (hcb : c ≠ b) (hn : n < 2 ^ 64)
    (himport : ∀ t : State, t.cfg = s.cfg → t.Holds b c bs n → exec j t = .next (wroteV t e l 0)) :
    ∃ t, execSeq [i, j] s = .next t ∧ CameBack s t e l := by
  obtain ⟨t, ht, hexported⟩ := (State.toDest_outcomes (rd := c) (n := n) (rfl : bs.length = bs.length)).2 hin
  have hstate := hexported.1
  have hcfg : t.cfg = s.cfg := by rw [hstate]
  have hfault : t.fault = s.fault := by rw [hstate]
  have hpc : t.pc = s.pc + 4 := by rw [hstate]
  refine ⟨_, execSeq_pair (hexport.trans ht) (himport t hcfg (holds_of_exported hexported hin hcb hn)), ?_, hfault, ?_, hcfg⟩
  · exact File8.get_set_same ..
  · calc t.pc + 4 = s.pc + 4 + 4 := by rw [hpc]
      _ = s.pc + 8 := BitVec.add_assoc ..

variable (hlegal : s.cfg.Legal) (hcb : c ≠ b)
include hlegal hcb

theorem tostr_fbin_cameBack (hfits : (s.v.get d).bits.length ≤ s.cfg.maxLen)
    (hin : InRange s.cfg (s.xNat b) (s.v.get d).bits.length) :
    ∃ t, execSeq [.tostr c d b, .fbin e b c] s = .next t ∧ CameBack s t e (s.v.get d).bits := by
  obtain ⟨-, -, hmax, -⟩ := hlegal
  have hlen : ((s.v.get d).bits.reverse.map bitChar).length = (s.v.get d).bits.length := by
    rw [List.length_map, List.length_reverse]
  refine exists_cameBack rfl (hlen ▸ hin) hcb (by omega) fun t hcfg ht => ?_
  rw [hlen] at ht
  exact ht.exec_fbin (hcfg ▸ hfits)

theorem tobits_ldbits_cameBack (hfits : (s.v.get d).bits.length ≤ s.cfg.maxLen)
    (hin : InRange s.cfg (s.xNat b) (s.v.get d).bits.length) :
    ∃ t, execSeq [.tobits c d b, .ldbits e b c] s = .next t ∧ CameBack s t e (s.v.get d).bits := by
  obtain ⟨-, -, hmax, -⟩ := hlegal
  have hlen : ((s.v.get d).bits.map bitByte).length = (s.v.get d).bits.length := List.length_map _
  refine exists_cameBack rfl (hlen ▸ hin) hcb (by omega) fun t hcfg ht => ?_
  rw [hlen] at ht
  exact ht.exec_ldbits (hcfg ▸ hfits)

theorem tobytes_fbytes_cameBack (hwhole : (s.v.get d).bits.length % 8 = 0)
    (hfits : (s.v.get d).bits.length ≤ s.cfg.maxLen) (hin : InRange s.cfg (s.xNat b) ((s.v.get d).bits.length / 8)) :
    ∃ t, execSeq [.tobytes c d b, .fbytes e b c] s = .next t ∧ CameBack s t e (s.v.get d).bits := by
  obtain ⟨-, -, hmax, -⟩ := hlegal
  have hlen : (byteGroups (s.v.get d).bits).length = (s.v.get d).bits.length / 8 := by
    rw [length_byteGroups]
    omega
  refine exists_cameBack rfl (hlen ▸ hin) hcb (by omega) fun t hcfg ht => ?_
  rw [ht.exec_fbytes (by rw [hcfg]; omega), flatMap_octetDigits_byteGroups hwhole]

theorem tooff_foff_cameBack (hfits : (s.v.get d).bits.length ≤ s.cfg.maxLen)
    (hin : InRange s.cfg (s.xNat b) (4 * (s.v.get d).bits.count true)) :
    ∃ t, execSeq [.tooff c d b, .foff e b c] s = .next t ∧ CameBack s t e (trimmed (s.v.get d).bits) := by
  have hlen := length_offsetsFrom 0 (s.v.get d).bits
  have hbytes : ((offsetsFrom 0 (s.v.get d).bits).flatMap u32Bytes).length = 4 * (s.v.get d).bits.count true := by
    rw [length_flatMap_u32Bytes, hlen]
  have hcount : (offsetsFrom 0 (s.v.get d).bits).length < 2 ^ 64 := by
    obtain ⟨-, -, hmax, -⟩ := hlegal
    have hle : (s.v.get d).bits.count true ≤ (s.v.get d).bits.length := List.count_le_length
    omega
  refine exists_cameBack rfl (hbytes ▸ hin) hcb hcount fun t hcfg ht => ?_
  rw [ht.exec_foff (hcfg ▸ hlegal) fun o ho => (lt_length_of_mem_offsetsFrom ho).trans_le (hcfg ▸ hfits),
    foldl_setOffset_offsetsFrom]

theorem tohex_fhex_cameBack (hfits : valueOf (s.v.get d).bits < 2 ^ s.cfg.numBits)
    (hin : s.xNat b + 16 ≤ s.cfg.dmemBytes) :
    ∃ t, execSeq [.tohex c d b, .fhex e b c] s = .next t ∧ CameBack s t e (trimmed (s.v.get d).bits) := by
  have hvalue : valueOf (s.v.get d).bits < 2 ^ 64 := by
    obtain ⟨-, -, -, -, hbits, -⟩ := hlegal
    exact hfits.trans_le (Nat.pow_le_pow_right (by decide) hbits)
  have hlen := length_hexText_le hvalue
  have hexec : exec (.tohex c d b) s =
      s.toDest c (s.xNat b) (hexText (valueOf (s.v.get d).bits)) (hexText (valueOf (s.v.get d).bits)).length := by
    rw [exec, execTohex, toNumber_eq_valueOf, State.inDomain_in hfits]
  refine exists_cameBack hexec (.inr (by omega)) hcb (by omega) fun t hcfg ht => ?_
  rw [ht.exec_fhex (hcfg ▸ hfits), bitsOf_valueOf]

end pairs

section roundTrips

/-- Settles O38: `tostr_fbin_cameBack` and `tobits_ldbits_cameBack`. -/
theorem stringsAndRawBitsComeBack : Obligations.StringsAndRawBitsComeBack := by
  intro s d e b c hlegal hcb hfits hin
  obtain ⟨t, ht, hback⟩ := tostr_fbin_cameBack (e := e) hlegal hcb hfits (.inr hin)
  obtain ⟨u, hu, hback'⟩ := tobits_ldbits_cameBack (e := e) hlegal hcb hfits (.inr hin)
  exact ⟨⟨t, ht, hback.bits, hback.fault, hback.pc⟩, u, hu, hback'.bits, hback'.fault, hback'.pc⟩

/-- Settles O40: the highest offset gives the length, as `foldl_setOffset_offsetsFrom` says. -/
theorem offsetsComeBackTrimmed : Obligations.OffsetsComeBackTrimmed := by
  intro s d e b c hlegal hcb hfits hin
  obtain ⟨t, ht, hback⟩ := tooff_foff_cameBack (e := e) hlegal hcb hfits hin
  exact ⟨t, ht, hback.bits, hback.fault, hback.pc⟩

/-- FBYTES then TOBYTES: the whole buffer is in V[d] before the first byte is stored, so the ranges may overlap. -/
theorem fbytes_tobytes_copies {s : State} {d : VIx} {a n b c : XIx} (hsource : InRange s.cfg (s.xNat a) (s.xNat n))
    (hdest : InRange s.cfg (s.xNat b) (s.xNat n)) (hfits : 8 * s.xNat n ≤ s.cfg.maxLen) :
    ∃ t, execSeq [.fbytes d a n, .tobytes c d b] s = .next t ∧ t.x.get c = s.x.get n ∧
      (∀ j < s.xNat n, t.byteAt (s.xNat b + j) = s.byteAt (s.xNat a + j)) ∧ t.fault = s.fault ∧ t.pc = s.pc + 8 := by
  obtain ⟨bs, hbs⟩ : ∃ bs, s.memRead (s.xNat a) (s.xNat n) = bs := ⟨_, rfl⟩
  have hlen : bs.length = s.xNat n := by rw [← hbs, State.length_memRead]
  have hsrc : s.Holds a n bs bs.length := by
    rw [hlen, ← hbs]
    exact State.holds_memRead hsource
  have himport := hsrc.exec_fbytes (e := d) (hlen ▸ hfits)
  obtain ⟨u, hu⟩ : ∃ u, wroteV s d (bs.flatMap fun x => octetDigits x.toNat) 0 = u := ⟨_, rfl⟩
  have hgroups : byteGroups (u.v.get d).bits = bs := by
    rw [← hu, wroteV, File8.get_set_same, byteGroups_flatMap_octetDigits]
  have haddr : u.xNat b = s.xNat b := by rw [← hu]; rfl
  have hexport : exec (.tobytes c d b) u = u.toDest c (s.xNat b) bs bs.length := by
    rw [exec, execTobytes, hgroups, haddr]
  have hcfg : u.cfg = s.cfg := by rw [← hu]; rfl
  obtain ⟨t, ht, hstate, hbytes⟩ :=
    (State.toDest_outcomes (rd := c) (n := bs.length) hlen).2 (hcfg ▸ hdest : InRange u.cfg (s.xNat b) (s.xNat n))
  refine ⟨t, execSeq_pair (hu ▸ himport) (hexport.trans ht), ?_, fun j hj => ?_, ?_, ?_⟩
  · rw [hstate, File8.get_set_same, hlen, State.xNat, BitVec.ofNat_toNat, BitVec.setWidth_eq]
  · have hrange : s.xNat b ≤ s.xNat b + j ∧ s.xNat b + j < s.xNat b + bs.length := by omega
    have hbyte : bs[j]? = some (s.byteAt (s.xNat a + j)) := by rw [← hbs, State.getElem?_memRead, if_pos hj]
    rw [hbytes, if_pos hrange, Nat.add_sub_cancel_left, List.getD_eq_getElem?_getD, hbyte, Option.getD_some]
  · rw [hstate, ← hu]
    rfl
  · calc t.pc = s.pc + 4 + 4 := by rw [hstate, ← hu]; rfl
      _ = s.pc + 8 := BitVec.add_assoc ..

/-- Settles O39: `fbytes_tobytes_copies` and `tobytes_fbytes_cameBack`. -/
theorem buffersAndWholeBytesComeBack : Obligations.BuffersAndWholeBytesComeBack := by
  intro s d e a n b c hlegal hcb
  refine ⟨fbytes_tobytes_copies, fun hwhole hfits hin => ?_⟩
  obtain ⟨t, ht, hback⟩ := tobytes_fbytes_cameBack (e := e) hlegal hcb hwhole hfits hin
  exact ⟨t, ht, hback.bits, hback.fault, hback.pc⟩

/-- FNUM, TOBITS, LDBITS and TONUM: the bits of the number come back as `tobits_ldbits_cameBack` says, and have its value. -/
theorem fnum_tobits_ldbits_tonum {s : State} {d e : VIx} {n b c r : XIx} (hlegal : s.cfg.Legal) (hcb : c ≠ b)
    (hfits : s.xNat n < 2 ^ s.cfg.numBits) (hin : s.xNat b + s.cfg.numBits ≤ s.cfg.dmemBytes) :
    ∃ t, execSeq [.fnum d n, .tobits c d b, .ldbits e b c, .tonum r e] s = .next t ∧ t.x.get r = s.x.get n ∧
      t.fault = s.fault ∧ t.pc = s.pc + 16 := by
  obtain ⟨u, hu⟩ : ∃ u, wroteV s d (bitsOf (s.xNat n)) 0 = u := ⟨_, rfl⟩
  have hfnum : exec (.fnum d n) s = .next u := hu ▸ State.inDomain_writeResult hfits d
  have hbits : (u.v.get d).bits = bitsOf (s.xNat n) := by rw [← hu, wroteV, File8.get_set_same]
  have haddr : u.xNat b = s.xNat b := by rw [← hu]; rfl
  have hcfg : u.cfg = s.cfg := by rw [← hu]; rfl
  have hsize : (u.v.get d).bits.length ≤ s.cfg.numBits := by
    rw [hbits, bitsOf, List.length_map, List.length_range]
    exact Nat.size_le.2 hfits
  have hmax : (u.v.get d).bits.length ≤ u.cfg.maxLen := by
    rw [hbits, hcfg, ← lsbDigits_eq_bitsOf]
    exact length_lsbDigits_le hlegal hfits
  have hdest : InRange u.cfg (u.xNat b) (u.v.get d).bits.length := .inr (by rw [haddr, hcfg]; omega)
  obtain ⟨t, ht, hback⟩ := tobits_ldbits_cameBack (e := e) (hcfg ▸ hlegal) hcb hmax hdest
  have hvalue : valueOf (t.v.get e).bits = s.xNat n := by rw [hback.bits, hbits, valueOf_bitsOf]
  have htonum : exec (.tonum r e) t = .next (wroteX t r (s.xNat n)) := by
    rw [← hvalue]
    refine (tonumGivesThePositionalValue t r e).2.1 ?_
    rwa [hvalue, hback.cfg, hcfg]
  refine ⟨wroteX t r (s.xNat n), ?_, ?_, hback.fault.trans (by rw [← hu]; rfl), ?_⟩
  · rw [execSeq_cons hfnum]
    exact (execSeq_append ht [.tonum r e]).trans (execSeq_cons htonum [])
  · rw [wroteX, File8.get_set_same, State.xNat, BitVec.ofNat_toNat, BitVec.setWidth_eq]
  · calc t.pc + 4 = s.pc + 4 + 8 + 4 := by rw [hback.pc, ← hu]; rfl
      _ = s.pc + 16 := by rw [BitVec.add_assoc, BitVec.add_assoc]; rfl

/-- Settles O37: `fnum_tobits_ldbits_tonum` and `tohex_fhex_cameBack`. -/
theorem numbersAndHexTextComeBack : Obligations.NumbersAndHexTextComeBack := by
  intro s d e n b c r hlegal hcb
  refine ⟨fnum_tobits_ldbits_tonum hlegal hcb, fun hfits hin => ?_⟩
  obtain ⟨t, ht, hback⟩ := tohex_fhex_cameBack (e := e) hlegal hcb hfits hin
  exact ⟨t, ht, hback.bits, hback.fault, hback.pc⟩

end roundTrips

end Sys2Proof.Machine
end

section
/-! SUPPORT. The words of format L (30_encoding.md R84), and the per-index vote of 43_set_algebra.md R240: how its length and its
counts behave, and what each decision says of the operands. -/

namespace Sys2Proof.Machine

open Sys2Proof.Claims

section listWords

/-- The operands of the field table, added up from bit `lo`, are the packed slots moved up to `lo` (30_encoding.md R84). -/
theorem sum_slotFields_eq_packSlots (ops : List VIx) (lo : Nat) :
    ((List.range ops.length).map fun k => (ops.getD k 0).val * 2 ^ (lo + 3 * k)).sum = packSlots ops * 2 ^ lo := by
  induction ops generalizing lo with
  | nil => rw [packSlots, List.foldr_nil, Nat.zero_mul]; rfl
  | cons r ops ih =>
    have hcons : packSlots (r :: ops) = r.val + 8 * packSlots ops := rfl
    have htail : ((List.range ops.length).map fun k => ((r :: ops).getD (k + 1) 0).val * 2 ^ (lo + 3 * (k + 1))).sum =
        packSlots ops * 2 ^ (lo + 3) := by
      rw [← ih (lo + 3)]
      congr 2
      funext k
      rw [List.getD_cons_succ]
      congr 2
      omega
    rw [List.length_cons, List.range_succ_eq_map, List.map_cons, List.map_map, List.sum_cons, List.getD_cons_zero, hcons]
    refine (congrArg _ htail).trans ?_
    rw [Nat.mul_zero, Nat.add_zero, pow_add]
    ring

/-- The word of a format L command, from the field table, is the one that the encoder packs (30_encoding.md R84). -/
theorem lWord_eq_packL (op : Nat) (rd : VIx) (ops : List VIx) : lWord op rd ops = BitVec.ofNat 32 (packL op rd ops) := by
  rw [lWord, packL, sum_slotFields_eq_packSlots]
  congr 1
  omega

/-- A format L word decodes to the command that packs its fields. -/
theorem decode_lWord {i : Instr} {op : Nat} {rd : VIx} {ops : List VIx} (hi : i.wellFormed = true)
    (hpack : encodeNat i = packL op rd ops) : decode (lWord op rd ops) = .ok i := by
  rw [lWord_eq_packL, ← hpack]
  exact decode_encode hi

end listWords

section longestOperand

theorem longest_eq_foldr (ops : List (List Bool)) : longest ops = (ops.map List.length).foldr max 0 := by
  rw [longest, ← List.foldl_map, List.foldl_eq_foldr]

theorem longest_cons (l : List Bool) (ops : List (List Bool)) : longest (l :: ops) = max l.length (longest ops) := by
  simp only [longest_eq_foldr, List.map_cons, List.foldr_cons]

theorem longest_append (xs ys : List (List Bool)) : longest (xs ++ ys) = max (longest xs) (longest ys) := by
  induction xs with
  | nil => exact (Nat.zero_max _).symm
  | cons l xs ih => rw [List.cons_append, longest_cons, longest_cons, ih, max_assoc]

theorem length_le_longest {ops : List (List Bool)} {l : List Bool} (h : l ∈ ops) : l.length ≤ longest ops := by
  induction h with
  | head => exact longest_cons .. ▸ le_max_left ..
  | tail _ _ ih => exact longest_cons .. ▸ ih.trans (le_max_right ..)

theorem longest_perm {xs ys : List (List Bool)} (h : xs.Perm ys) : longest xs = longest ys := by
  rw [longest_eq_foldr, longest_eq_foldr]
  exact (h.map _).foldr_eq 0

/-- An operand list that has been voted on is as long as the operands themselves. -/
theorem longest_reconcile_cons (f : Nat → Nat → Bool) (xs ys : List (List Bool)) :
    longest (reconcile f xs :: ys) = longest (xs ++ ys) := by
  rw [longest_cons, length_reconcile, longest_append]

end longestOperand

section counts

/-- The operand has the index and holds a 1 there; `votes_eq_countP` ties it to the count of 43_set_algebra.md R240. -/
def hasOne (i : Nat) (l : List Bool) : Bool := l[i]? == some true

theorem votes_eq_countP (ops : List (List Bool)) (i : Nat) : votes ops i = ops.countP (hasOne i) := rfl

theorem votes_perm {xs ys : List (List Bool)} (h : xs.Perm ys) (i : Nat) : votes xs i = votes ys i := h.countP_eq _

theorem hasOne_of_length_le {i : Nat} {l : List Bool} (h : l.length ≤ i) : hasOne i l = false := by
  rw [hasOne, List.getElem?_eq_none h]
  rfl

/-- An operand that lacks the index, zero-extended, still casts no vote there (43_set_algebra.md R241). -/
theorem hasOne_append_zeros (i n : Nat) (l : List Bool) : hasOne i (l ++ List.replicate n false) = hasOne i l := by
  rcases Nat.lt_or_ge i l.length with hi | hi
  · rw [hasOne, List.getElem?_append_left hi, hasOne]
  · rw [hasOne_of_length_le hi, hasOne, List.getElem?_append_right hi, List.getElem?_replicate]
    split <;> rfl

theorem votes_of_longest_le {ops : List (List Bool)} {i : Nat} (h : longest ops ≤ i) : votes ops i = 0 := by
  rw [votes_eq_countP, List.countP_eq_zero]
  intro l hl
  rw [hasOne_of_length_le ((length_le_longest hl).trans h)]
  exact Bool.false_ne_true

/-- The result of a vote depends on the operands by their number, the longest length and the counts only (43_set_algebra.md
R241). -/
theorem reconcile_congr {xs ys : List (List Bool)} (f : Nat → Nat → Bool) (hnumber : xs.length = ys.length)
    (hlongest : longest xs = longest ys) (hvotes : ∀ i, votes xs i = votes ys i) : reconcile f xs = reconcile f ys := by
  rw [reconcile, reconcile, hnumber, hlongest]
  simp only [hvotes]

/-- A decision that is not met without a vote gives a 1 exactly where it is met, since no operand votes beyond the longest. -/
theorem hasOne_reconcile {f : Nat → Nat → Bool} {ops : List (List Bool)} (hf : f 0 ops.length = false) (i : Nat) :
    hasOne i (reconcile f ops) = f (votes ops i) ops.length := by
  rcases Nat.lt_or_ge i (longest ops) with hi | hi
  · rw [hasOne, reconcile, List.getElem?_map, List.getElem?_range hi, Option.map_some]
    cases f (votes ops i) ops.length <;> rfl
  · rw [hasOne_of_length_le (length_reconcile f ops ▸ hi), votes_of_longest_le hi, hf]

end counts

section decisions

theorem andDecision_votes (ops : List (List Bool)) (i : Nat) :
    andDecision (votes ops i) ops.length = ops.all (hasOne i) := by
  rw [Bool.eq_iff_iff, andDecision, beq_iff_eq, votes_eq_countP, List.countP_eq_length, List.all_eq_true]

theorem orDecision_votes (ops : List (List Bool)) (i : Nat) :
    orDecision (votes ops i) ops.length = ops.any (hasOne i) := by
  rw [Bool.eq_iff_iff, orDecision, decide_eq_true_iff, votes_eq_countP, Nat.one_le_iff_ne_zero, ← Nat.pos_iff_ne_zero,
    List.countP_pos_iff, List.any_eq_true]

theorem xorDecision_eq_decide (count n : Nat) : xorDecision count n = decide (count = 1 ∨ count = n) := by
  rw [Bool.decide_or]
  rfl

/-- AND's result, index by index (43_set_algebra.md R242). -/
theorem reconcile_andDecision (ops : List (List Bool)) :
    reconcile andDecision ops = (List.range (longest ops)).map fun i => ops.all (hasOne i) := by
  simp only [reconcile, andDecision_votes]

/-- OR's result, index by index (43_set_algebra.md R243). -/
theorem reconcile_orDecision (ops : List (List Bool)) :
    reconcile orDecision ops = (List.range (longest ops)).map fun i => ops.any (hasOne i) := by
  simp only [reconcile, orDecision_votes]

end decisions

end Sys2Proof.Machine
end

section
/-! The statements about the set algebra commands: AND, OR and XOR on every index (43_set_algebra.md R242 to R244), the
zero-extended operands (R241) and the composition of votes (R246). -/

namespace Sys2Proof.Machine

open Sys2Proof.Claims

section commands

theorem longest_operands (s : State) (ops : List VIx) : longest (s.operands ops) = maxLength s ops := by
  rw [longest_eq_foldr, State.operands, List.map_map]
  rfl

theorem hasOne_bits (s : State) (k : VIx) (i : Nat) : hasOne i (s.v.get k).bits = oneAt s k i := rfl

/-- Duplicated operands are counted as often as the list names them (43_set_algebra.md R240). -/
theorem votes_operands (s : State) (ops : List VIx) (i : Nat) :
    votes (s.operands ops) i = (ops.filter fun k => oneAt s k i).length := by
  rw [votes_eq_countP, State.operands, List.countP_map, List.countP_eq_length_filter]
  simp only [Function.comp_def, hasOne_bits]

/-- Settles O30: `reconcile_andDecision` and `reconcile_orDecision` over the vectors that the list names. -/
theorem andAndOrVoteOnEveryIndex : Obligations.AndAndOrVoteOnEveryIndex := by
  intro s rd ops
  refine ⟨fun hops => ⟨decode_lWord hops rfl, decode_lWord hops rfl⟩, ?_, ?_⟩
  · rw [exec, execAnd, State.writeResult_complete, reconcile_andDecision, longest_operands]
    simp only [State.operands, List.all_map, Function.comp_def, hasOne_bits]
  · rw [exec, execOr, State.writeResult_complete, reconcile_orDecision, longest_operands]
    simp only [State.operands, List.any_map, Function.comp_def, hasOne_bits]

/-- Settles O31: the count of R240 is that of the named operands with a 1, and N that of all named operands. -/
theorem xorMarksExactlyOneOrAll : Obligations.XorMarksExactlyOneOrAll := by
  intro s rd ops
  refine ⟨fun hops => decode_lWord hops rfl, ?_⟩
  have hnumber : (s.operands ops).length = ops.length := List.length_map _
  rw [exec, execXor, State.writeResult_complete, reconcile, longest_operands, hnumber]
  simp only [votes_operands, xorDecision_eq_decide]

end commands

section equivalences

/-- Zero-extension to the longest length changes neither that length nor a count, whatever the decision. -/
theorem reconcile_zeroExtended (f : Nat → Nat → Bool) (ops : List (List Bool)) :
    reconcile f (ops.map fun l => l ++ List.replicate (longest ops - l.length) false) = reconcile f ops := by
  refine reconcile_congr f (List.length_map _) (le_antisymm (longest_le ?_) (longest_le ?_)) fun i => ?_
  · intro l' hl'
    obtain ⟨l, hl, rfl⟩ := List.mem_map.1 hl'
    rw [List.length_append, List.length_replicate, Nat.add_sub_cancel' (length_le_longest hl)]
  · intro l hl
    refine le_trans ?_ (length_le_longest (List.mem_map_of_mem hl))
    exact List.length_append ▸ Nat.le_add_right ..
  · rw [votes_eq_countP, List.countP_map, votes_eq_countP]
    exact List.countP_congr fun l _ => by rw [Function.comp, hasOne_append_zeros]

/-- Settles O32: `reconcile_zeroExtended` holds for every decision. -/
theorem votesEqualThoseOverZeroExtendedOperands : Obligations.VotesEqualThoseOverZeroExtendedOperands :=
  fun ops f _ => reconcile_zeroExtended f ops

/-- The vote is the same in every order of the operands, whatever the decision. -/
theorem reconcile_perm (f : Nat → Nat → Bool) {xs ys : List (List Bool)} (h : xs.Perm ys) :
    reconcile f xs = reconcile f ys :=
  reconcile_congr f h.length_eq (longest_perm h) (votes_perm h)

/-- AND of some operands stands for them in a longer list: it has a 1 exactly where all of them have. -/
theorem reconcile_andDecision_chain {xs : List (List Bool)} (hxs : xs ≠ []) (ys : List (List Bool)) :
    reconcile andDecision (reconcile andDecision xs :: ys) = reconcile andDecision (xs ++ ys) := by
  have hnone : andDecision 0 xs.length = false := beq_false_of_ne (List.length_pos_iff.2 hxs).ne
  rw [reconcile_andDecision (_ :: _), longest_reconcile_cons, reconcile_andDecision (xs ++ ys)]
  simp only [List.all_cons, List.all_append, hasOne_reconcile hnone, andDecision_votes]

/-- OR of some operands stands for them in a longer list: it has a 1 exactly where one of them has. -/
theorem reconcile_orDecision_chain (xs ys : List (List Bool)) :
    reconcile orDecision (reconcile orDecision xs :: ys) = reconcile orDecision (xs ++ ys) := by
  rw [reconcile_orDecision (_ :: _), longest_reconcile_cons, reconcile_orDecision (xs ++ ys)]
  simp only [List.any_cons, List.any_append, hasOne_reconcile (f := orDecision) rfl, orDecision_votes]

/-- Two 1s are all of two operands, so the chain goes on with a single 1 and ends in a 1; of the three operands they are
neither one nor all (43_set_algebra.md R246). -/
theorem xorDecision_chain_ne :
    reconcile xorDecision [reconcile xorDecision [[true], [true]], [false]] ≠
      reconcile xorDecision [[true], [true], [false]] := by
  decide

/-- Settles O33: the two chains, every order of the operands, and the operands of `xorDecision_chain_ne`. -/
theorem andAndOrChainAndXorDoesNot : Obligations.AndAndOrChainAndXorDoesNot := by
  refine ⟨fun xs ys hxs f hf => ?_, fun xs ys h f _ => reconcile_perm f h, _, _, _, xorDecision_chain_ne⟩
  rcases List.mem_pair.1 hf with rfl | rfl
  · exact reconcile_andDecision_chain hxs ys
  · exact reconcile_orDecision_chain xs ys

end equivalences

end Sys2Proof.Machine
end

section
/-! SUPPORT. The number of ones of a number (44_cardinality.md R260), as what the commands count: the elements of a bit sequence
that has the number as its value, the bits below a width, and the bytes of a little-endian number. -/

namespace Sys2Proof.Machine

open Sys2Proof.Claims

section ones

/-- The lowest digit is added to the sum of the others. -/
theorem sum_digits_add_mul {b x : Nat} (hb : 1 < b) (hx : x < b) (y : Nat) :
    (Nat.digits b (x + b * y)).sum = x + (Nat.digits b y).sum := by
  rcases Nat.eq_zero_or_pos (x + y) with hzero | hpos
  · obtain ⟨rfl, rfl⟩ := Nat.add_eq_zero_iff.1 hzero
    simp
  · rw [Nat.digits_add b hb x y hx (by omega), List.sum_cons]

/-- The ones of a value are the ones of the sequence, whatever zeros are at its high end. -/
theorem onesIn_valueOf (l : List Bool) : onesIn (valueOf l) = (l.map Bool.toNat).sum := by
  induction l with
  | nil => rfl
  | cons b l ih =>
    have hcons : valueOf (b :: l) = b.toNat + 2 * valueOf l := Nat.ofDigits_cons ..
    rw [hcons, onesIn, sum_digits_add_mul (by decide) b.toNat_lt, ← onesIn, ih, List.map_cons, List.sum_cons]

/-- The ones of LSBDigits (41_codec_import.md R150). -/
theorem sum_bitsOf (v : Nat) : ((bitsOf v).map Bool.toNat).sum = onesIn v := by
  rw [← onesIn_valueOf, valueOf_bitsOf]

/-- The ones of OctetDigits: the zeros of the alignment and the order make no difference (41_codec_import.md R152). -/
theorem sum_octetDigits (v : Nat) : ((octetDigits v).map Bool.toNat).sum = onesIn v := by
  rw [← List.sum_reverse, ← List.map_reverse, ← onesIn_valueOf, ← groupValue_eq_valueOf, groupValue_octetDigits]

/-- A number is the value of its low bits, as many as it fits in. -/
theorem valueOf_map_testBit {v n : Nat} (hv : v < 2 ^ n) : valueOf ((List.range n).map v.testBit) = v :=
  valueOf_eq_of_getD fun i => by
    rcases Nat.lt_or_ge i n with hi | hi
    · simp [hi]
    · have hzero : v.testBit i = false := Nat.testBit_lt_two_pow (hv.trans_le (Nat.pow_le_pow_right (by decide) hi))
      simp [hi, hzero]

/-- A count of the bits below a width counts all ones of a number that fits in it. -/
theorem countP_testBit {v n : Nat} (hv : v < 2 ^ n) : (List.range n).countP v.testBit = onesIn v := by
  calc (List.range n).countP v.testBit = ((List.range n).map v.testBit).countP id := by rw [List.countP_map]; rfl
    _ = onesIn (valueOf ((List.range n).map v.testBit)) := by rw [countP_id_eq_sum, onesIn_valueOf]
    _ = onesIn v := by rw [valueOf_map_testBit hv]

/-- popcount32 (44_cardinality.md R260). -/
theorem popcount32_eq_onesIn {w : Nat} (hw : w < 2 ^ 32) : popcount32 w = onesIn w := countP_testBit hw

/-- Two numbers one above the other have their ones side by side. -/
theorem onesIn_add_mul {a n : Nat} (ha : a < 2 ^ n) (b : Nat) : onesIn (a + 2 ^ n * b) = onesIn a + onesIn b := by
  have hjoin : valueOf ((List.range n).map a.testBit ++ bitsOf b) = a + 2 ^ n * b := by
    rw [valueOf, List.map_append, Nat.ofDigits_append, ← valueOf, ← valueOf, valueOf_map_testBit ha, valueOf_bitsOf,
      List.length_map, List.length_map, List.length_range]
  rw [← hjoin, onesIn_valueOf, List.map_append, List.sum_append, ← onesIn_valueOf, ← onesIn_valueOf,
    valueOf_map_testBit ha, valueOf_bitsOf]

end ones

section bytes

theorem leNat_cons (b : Byte) (bs : List Byte) : leNat (b :: bs) = b.toNat + 2 ^ 8 * leNat bs := rfl

theorem leNat_lt (bs : List Byte) : leNat bs < 2 ^ (8 * bs.length) := by
  induction bs with
  | nil => decide
  | cons b bs ih =>
    have := b.isLt
    rw [leNat_cons, List.length_cons, Nat.mul_succ, pow_add]
    omega

/-- The ones of a little-endian number are those of its bytes. -/
theorem onesIn_leNat (bs : List Byte) : onesIn (leNat bs) = (bs.map fun b => onesIn b.toNat).sum := by
  induction bs with
  | nil => rfl
  | cons b bs ih => rw [leNat_cons, onesIn_add_mul b.isLt, ih, List.map_cons, List.sum_cons]

theorem length_le_of_mem_chunks {α : Type} {n : Nat} (hn : 0 < n) {l g : List α} (hg : g ∈ chunks n l) : g.length ≤ n := by
  rw [chunks_eq hn] at hg
  obtain ⟨k, -, rfl⟩ := List.mem_map.1 hg
  exact List.length_take_le ..

/-- The scan by groups of four bytes, the last one perhaps shorter, counts the ones of every byte once (44_cardinality.md
R263). -/
theorem sum_popcount32_chunks (bs : List Byte) :
    ((chunks 4 bs).map fun g => popcount32 (leNat g)).sum = (bs.map fun b => onesIn b.toNat).sum := by
  have hgroup : ∀ g ∈ chunks 4 bs, popcount32 (leNat g) = (g.map fun b => onesIn b.toNat).sum := fun g hg => by
    have hlen : 8 * g.length ≤ 32 := Nat.mul_le_mul_left 8 (length_le_of_mem_chunks (by decide) hg)
    rw [popcount32_eq_onesIn ((leNat_lt g).trans_le (Nat.pow_le_pow_right (by decide) hlen)), onesIn_leNat]
  calc ((chunks 4 bs).map fun g => popcount32 (leNat g)).sum
      = ((chunks 4 bs).map fun g => (g.map fun b => onesIn b.toNat).sum).sum := by rw [List.map_congr_left hgroup]
    _ = ((chunks 4 bs).flatten.map fun b => onesIn b.toNat).sum := by
      rw [List.map_flatten, List.sum_flatten, List.map_map]; rfl
    _ = (bs.map fun b => onesIn b.toNat).sum := by rw [flatten_chunks (by decide)]

/-- The ones of FBYTES' bits are those of the bytes (41_codec_import.md R167). -/
theorem sum_flatMap_octetDigits (bs : List Byte) :
    ((bs.flatMap fun b => octetDigits b.toNat).map Bool.toNat).sum = (bs.map fun b => onesIn b.toNat).sum := by
  induction bs with
  | nil => rfl
  | cons b bs ih =>
    rw [List.flatMap_cons, List.map_append, List.sum_append, ih, sum_octetDigits, List.map_cons, List.sum_cons]

end bytes

end Sys2Proof.Machine
end

section
/-! SUPPORT. The parallel count of 44_cardinality.md R260. Each of its steps adds neighbouring fields of `k` bits into fields of
`2k` bits, which leaves the sum of the fields, the digits in base 2^k, as it was; at first that sum is the number of ones. -/

namespace Sys2Proof.Machine

open Sys2Proof.Claims

section masks

/-- The mask of the lower `k` bits in each of `n` fields of `2k` bits. -/
def fieldMask (k : Nat) : Nat → Nat
  | 0 => 0
  | n + 1 => 2 ^ k - 1 + 2 ^ (2 * k) * fieldMask k n

theorem fieldMask_one_sixteen : fieldMask 1 16 = 0x55555555 := by decide
theorem fieldMask_two_eight : fieldMask 2 8 = 0x33333333 := by decide
theorem fieldMask_four_four : fieldMask 4 4 = 0x0F0F0F0F := by decide

/-- One step of the parallel count: the fields at even places plus those at odd places. -/
def addPairs (k n v : Nat) : Nat := (v &&& fieldMask k n) + (v / 2 ^ k &&& fieldMask k n)

variable {k : Nat}

theorem and_fieldMask_zero (k v : Nat) : v &&& fieldMask k 0 = 0 := Nat.and_zero v

theorem and_fieldMask_succ (k n v : Nat) :
    v &&& fieldMask k (n + 1) = v % 2 ^ k + 2 ^ (2 * k) * (v / 2 ^ (2 * k) &&& fieldMask k n) := by
  have hle : 2 ^ k ≤ 2 ^ (2 * k) := Nat.pow_le_pow_right (by decide) (by omega)
  have hlt : 2 ^ k - 1 < 2 ^ (2 * k) := by have := Nat.two_pow_pos k; omega
  have hhigh : fieldMask k (n + 1) / 2 ^ (2 * k) = fieldMask k n := by
    rw [fieldMask, Nat.add_mul_div_left _ _ (by positivity), Nat.div_eq_of_lt hlt, Nat.zero_add]
  have hlow : fieldMask k (n + 1) % 2 ^ (2 * k) = 2 ^ k - 1 := by
    rw [fieldMask, Nat.add_mul_mod_self_left, Nat.mod_eq_of_lt hlt]
  rw [← Nat.mod_add_div (v &&& fieldMask k (n + 1)) (2 ^ (2 * k)), Nat.and_div_two_pow, Nat.and_mod_two_pow, hhigh, hlow,
    Nat.and_two_pow_sub_one_eq_mod, Nat.mod_mod_of_dvd _ (pow_dvd_pow 2 (by omega))]

theorem addPairs_zero (k v : Nat) : addPairs k 0 v = 0 := by
  rw [addPairs, and_fieldMask_zero, and_fieldMask_zero]

/-- The lowest pair of fields and the other pairs. -/
theorem addPairs_succ (k n v : Nat) :
    addPairs k (n + 1) v = (v % 2 ^ k + v / 2 ^ k % 2 ^ k) + 2 ^ (2 * k) * addPairs k n (v / 2 ^ (2 * k)) := by
  rw [addPairs, and_fieldMask_succ, and_fieldMask_succ, addPairs, Nat.div_div_eq_div_mul v, Nat.mul_comm (2 ^ k),
    ← Nat.div_div_eq_div_mul v]
  ring

/-- A field of twice the width holds the sum of two. -/
theorem pair_lt (hk : 0 < k) (v w : Nat) : v % 2 ^ k + w % 2 ^ k < 2 ^ (2 * k) := by
  have hv : v % 2 ^ k < 2 ^ k := Nat.mod_lt _ (Nat.two_pow_pos k)
  have hw : w % 2 ^ k < 2 ^ k := Nat.mod_lt _ (Nat.two_pow_pos k)
  have hsq : 2 * 2 ^ k ≤ 2 ^ (2 * k) := by
    rw [← pow_succ']
    exact Nat.pow_le_pow_right (by decide) (by omega)
  omega

/-- Adding pairs of fields keeps the sum of the fields. -/
theorem sum_digits_addPairs (hk : 0 < k) {n v : Nat} (hv : v < 2 ^ (2 * k * n)) :
    (Nat.digits (2 ^ (2 * k)) (addPairs k n v)).sum = (Nat.digits (2 ^ k) v).sum := by
  have hone : 1 < 2 ^ k := Nat.one_lt_two_pow hk.ne'
  have honeSq : 1 < 2 ^ (2 * k) := Nat.one_lt_two_pow (by omega)
  induction n generalizing v with
  | zero =>
    obtain rfl : v = 0 := by simpa using hv
    rw [addPairs_zero, Nat.digits_zero, Nat.digits_zero]
  | succ n ih =>
    have hrest : v / 2 ^ (2 * k) < 2 ^ (2 * k * n) := by
      rw [Nat.mul_succ, Nat.add_comm, pow_add] at hv
      exact Nat.div_lt_of_lt_mul hv
    have hfields : v = v % 2 ^ k + 2 ^ k * (v / 2 ^ k % 2 ^ k + 2 ^ k * (v / 2 ^ (2 * k))) := by
      rw [Nat.two_mul, pow_add, ← Nat.div_div_eq_div_mul, Nat.mod_add_div, Nat.mod_add_div]
    rw [addPairs_succ, sum_digits_add_mul honeSq (pair_lt hk ..), ih hrest]
    conv_rhs =>
      rw [hfields, sum_digits_add_mul hone (Nat.mod_lt _ (by omega)), sum_digits_add_mul hone (Nat.mod_lt _ (by omega))]
    exact Nat.add_assoc ..

/-- After a step every field holds at most twice what a field of half the width can. -/
theorem addPairs_field_lt (hk : 0 < k) (n v i : Nat) : addPairs k n v / (2 ^ (2 * k)) ^ i % 2 ^ (2 * k) < 2 * 2 ^ k := by
  induction n generalizing v i with
  | zero => simp [addPairs_zero]
  | succ n ih =>
    have hpair := pair_lt hk v (v / 2 ^ k)
    cases i with
    | zero =>
      have hx : v % 2 ^ k < 2 ^ k := Nat.mod_lt _ (Nat.two_pow_pos k)
      have hy : v / 2 ^ k % 2 ^ k < 2 ^ k := Nat.mod_lt _ (Nat.two_pow_pos k)
      rw [addPairs_succ, pow_zero, Nat.div_one, Nat.add_mul_mod_self_left, Nat.mod_eq_of_lt hpair]
      omega
    | succ i =>
      rw [addPairs_succ, pow_succ', ← Nat.div_div_eq_div_mul, Nat.add_mul_div_left _ _ (Nat.two_pow_pos _),
        Nat.div_eq_of_lt hpair, Nat.zero_add]
      exact ih ..

/-- The first step of the parallel count subtracts the upper bit of every pair, once from its weight of two. -/
theorem sub_and_fieldMask {n v : Nat} (hv : v < 4 ^ n) : v - (v / 2 &&& fieldMask 1 n) = addPairs 1 n v := by
  have hpairs : (v &&& fieldMask 1 n) + 2 * (v / 2 &&& fieldMask 1 n) = v := by
    induction n generalizing v with
    | zero =>
      obtain rfl : v = 0 := by simpa using hv
      simp
    | succ n ih =>
      have hrest := ih (v := v / 4) (Nat.div_lt_of_lt_mul (by rwa [pow_succ'] at hv))
      have hcomm : v / 2 / 4 = v / 4 / 2 := Nat.div_right_comm ..
      rw [and_fieldMask_succ, and_fieldMask_succ]
      simp only [Nat.mul_one, pow_one, Nat.reducePow, hcomm]
      omega
  rw [addPairs, pow_one]
  omega

/-- The third step of the parallel count masks after the addition, which loses no carry where every field is below 8. -/
theorem add_div_and_fieldMask {n v : Nat} (hv : ∀ i, v / 16 ^ i % 16 < 8) :
    (v + v / 16) &&& fieldMask 4 n = addPairs 4 n v := by
  induction n generalizing v with
  | zero => rw [and_fieldMask_zero, addPairs_zero]
  | succ n ih =>
    have h0 : v % 16 < 8 := Nat.div_one v ▸ hv 0
    have h1 : v / 16 % 16 < 8 := hv 1
    have h2 : v / 256 % 16 < 8 := hv 2
    have hrest : ∀ i, v / 256 / 16 ^ i % 16 < 8 := fun i => by
      have := hv (2 + i)
      rwa [pow_add, ← Nat.div_div_eq_div_mul] at this
    have hdiv : v / 16 / 16 = v / 256 := Nat.div_div_eq_div_mul ..
    have hlow : (v + v / 16) % 16 = v % 16 + v / 16 % 16 := by omega
    have hhigh : (v + v / 16) / 256 = v / 256 + v / 256 / 16 := by omega
    have hstep := and_fieldMask_succ (k := 4) n (v + v / 16)
    rw [addPairs_succ, hstep]
    simp only [Nat.reduceMul, Nat.reducePow, hlow, hhigh, ih hrest]

end masks

section swar

/-- In the product the sum of the four bytes stands in bits 31:24, with no carry from below. -/
theorem mul_bytes_div (a b c d : Nat) (ha : a < 32) (hb : b < 32) (hc : c < 32) (hd : d < 32) :
    (a + 256 * (b + 256 * (c + 256 * d))) * 0x01010101 % 2 ^ 32 / 2 ^ 24 = a + (b + (c + d)) := by
  have hproduct : (a + 256 * (b + 256 * (c + 256 * d))) * 0x01010101 =
      (a + (a + b) * 2 ^ 8 + (a + b + c) * 2 ^ 16) + 2 ^ 24 * (a + (b + (c + d))) +
        2 ^ 32 * (b + c + d + (c + d) * 2 ^ 8 + d * 2 ^ 16) := by
    ring
  rw [hproduct, Nat.add_mul_mod_self_left, Nat.mod_eq_of_lt (by omega), Nat.add_mul_div_left _ _ (by decide),
    Nat.div_eq_of_lt (by omega), Nat.zero_add]

theorem toNat_swar_pairs (w : BitVec 32) : (w - ((w >>> 1) &&& 0x55555555#32)).toNat = addPairs 1 16 w.toNat := by
  have hle : (w >>> 1) &&& 0x55555555#32 ≤ w := BitVec.le_def.2 (Nat.and_le_left.trans (Nat.shiftRight_le ..))
  rw [← sub_and_fieldMask w.isLt, fieldMask_one_sixteen, BitVec.toNat_sub_of_le hle, BitVec.toNat_and,
    BitVec.toNat_ushiftRight, Nat.shiftRight_one]
  rfl

theorem toNat_swar_nibbles (w : BitVec 32) :
    ((w &&& 0x33333333#32) + ((w >>> 2) &&& 0x33333333#32)).toNat = addPairs 2 8 w.toNat := by
  have hlow : (w &&& 0x33333333#32).toNat ≤ 0x33333333 := Nat.and_le_right
  have hhigh : ((w >>> 2) &&& 0x33333333#32).toNat ≤ 0x33333333 := Nat.and_le_right
  rw [BitVec.toNat_add_of_lt (by omega), addPairs, fieldMask_two_eight, BitVec.toNat_and, BitVec.toNat_and,
    BitVec.toNat_ushiftRight, Nat.shiftRight_eq_div_pow]
  rfl

theorem toNat_swar_bytes {w : BitVec 32} (hw : ∀ i, w.toNat / 16 ^ i % 16 < 8) :
    ((w + (w >>> 4)) &&& 0x0F0F0F0F#32).toNat = addPairs 4 4 w.toNat := by
  have hshift : (w >>> 4).toNat = w.toNat / 16 := Nat.shiftRight_eq_div_pow ..
  have htop : w.toNat / 2 ^ 28 % 16 < 8 := hw 7
  rw [← add_div_and_fieldMask hw, fieldMask_four_four, BitVec.toNat_and, BitVec.toNat_add_of_lt (by omega), hshift]
  rfl

theorem toNat_swar_sum {w : BitVec 32} (hw : ∀ i, w.toNat / 256 ^ i % 256 < 32) :
    ((w * 0x01010101#32) >>> 24).toNat = (Nat.digits 256 w.toNat).sum := by
  have h0 : w.toNat % 256 < 32 := Nat.div_one w.toNat ▸ hw 0
  have h1 : w.toNat / 256 % 256 < 32 := hw 1
  have h2 : w.toNat / 65536 % 256 < 32 := hw 2
  have h3 : w.toNat / 16777216 % 256 < 32 := hw 3
  have hsplit : w.toNat = w.toNat % 256 + 256 * (w.toNat / 256 % 256 + 256 * (w.toNat / 65536 % 256 +
      256 * (w.toNat / 16777216 % 256))) := by
    have := w.isLt
    omega
  have hdigits (d : Nat) (hd : d < 32) : (Nat.digits 256 d).sum = d := by
    simpa using sum_digits_add_mul (b := 256) (by decide) (hd.trans (by decide)) 0
  have htoNat : ((w * 0x01010101#32) >>> 24).toNat = w.toNat * 0x01010101 % 2 ^ 32 / 2 ^ 24 := by
    rw [BitVec.toNat_ushiftRight, BitVec.toNat_mul, Nat.shiftRight_eq_div_pow]
    rfl
  rw [htoNat, hsplit, mul_bytes_div _ _ _ _ h0 h1 h2 h3, sum_digits_add_mul (by decide) (by omega),
    sum_digits_add_mul (by decide) (by omega), sum_digits_add_mul (by decide) (by omega), hdigits _ h3]

/-- The parallel count counts the ones (44_cardinality.md R260): the sum of the fields is the same after every step. -/
theorem toNat_swar (w : BitVec 32) : (swar w).toNat = onesIn w.toNat := by
  have h1 := toNat_swar_pairs w
  generalize hw1 : w - ((w >>> 1) &&& 0x55555555#32) = w1 at h1
  have h2 := toNat_swar_nibbles w1
  generalize hw2 : (w1 &&& 0x33333333#32) + ((w1 >>> 2) &&& 0x33333333#32) = w2 at h2
  have h3 := toNat_swar_bytes (w := w2) fun i => h2 ▸ addPairs_field_lt (k := 2) (by decide) 8 w1.toNat i
  generalize hw3 : (w2 + (w2 >>> 4)) &&& 0x0F0F0F0F#32 = w3 at h3
  have h4 := toNat_swar_sum (w := w3) fun i => h3 ▸ addPairs_field_lt (k := 4) (by decide) 4 w2.toNat i
  calc (swar w).toNat = (Nat.digits 256 w3.toNat).sum := by rw [swar, hw1, hw2, hw3, h4]
    _ = (Nat.digits 16 w2.toNat).sum := h3 ▸ sum_digits_addPairs (k := 4) (n := 4) (by decide) w2.isLt
    _ = (Nat.digits 4 w1.toNat).sum := h2 ▸ sum_digits_addPairs (k := 2) (n := 8) (by decide) w1.isLt
    _ = (Nat.digits 2 w.toNat).sum := h1 ▸ sum_digits_addPairs (k := 1) (n := 16) (by decide) w.isLt

end swar

end Sys2Proof.Machine
end

section
/-! The statements about the cardinality commands: POPC32 and POPCB (44_cardinality.md R261, R263), and the three paths of
R264. -/

namespace Sys2Proof.Machine

open Sys2Proof.Claims

section commands

variable {s : State} {rd ra rb : XIx}

theorem exec_popc32 (hw : s.xNat ra < 2 ^ 32) : exec (.popc32 rd ra) s = .next (wroteX s rd (onesIn (s.xNat ra))) := by
  rw [exec, execPopc32, if_neg (Nat.not_le.2 hw), popcount32_eq_onesIn hw, State.setX_complete]

theorem exec_popcb (hin : InRange s.cfg (s.xNat ra) (s.xNat rb)) :
    exec (.popcb rd ra rb) s =
      .next (wroteX s rd ((s.memRead (s.xNat ra) (s.xNat rb)).map fun b => onesIn b.toNat).sum) := by
  rw [exec, execPopcb, State.fromSource_in hin, sum_popcount32_chunks, State.setX_complete]

theorem exec_popcv (s : State) (rd : XIx) (d : VIx) :
    exec (.popcv rd d) s = .next (wroteX s rd ((s.v.get d).bits.map Bool.toNat).sum) := by
  obtain ⟨-, -, -, hpopcv⟩ := lenAndPopcvMeasureAVector s rd d
  exact hpopcv

/-- Settles O34: `exec_popc32`, `toNat_swar`, and RANGE at 2^32 and above. -/
theorem popc32CountsThirtyTwoBits : Obligations.Popc32CountsThirtyTwoBits := by
  intro s rd ra
  refine ⟨decode_rWord rfl rfl, fun hw => ⟨exec_popc32 hw, ?_⟩, fun hlarge => ?_⟩
  · rw [toNat_swar, BitVec.toNat_ofNat, Nat.mod_eq_of_lt hw]
  · rw [exec, execPopc32, if_pos hlarge, State.raise_eq_faulted]

/-- Settles O35: the bytes of the range, behind the check of the range. -/
theorem popcbCountsABuffer : Obligations.PopcbCountsABuffer := by
  intro s rd ra rb a n
  refine ⟨decode_rWord rfl rfl, fun hout => ?_, fun hin => ?_⟩
  · rw [exec, execPopcb, State.fromSource_faulted hout]
  · rw [exec_popcb hin, State.memRead, List.map_map]
    rfl

end commands

section paths

variable {s : State} {d : VIx} {rd ra rb : XIx}

/-- FBYTES of a range that fits a vector (41_codec_import.md R167). -/
theorem exec_fbytes (hin : InRange s.cfg (s.xNat ra) (s.xNat rb)) (hfits : 8 * s.xNat rb ≤ s.cfg.maxLen) :
    exec (.fbytes d ra rb) s =
      .next (wroteV s d ((s.memRead (s.xNat ra) (s.xNat rb)).flatMap fun b => octetDigits b.toNat) 0) := by
  rw [exec, execFbytes, State.fromSource_in hin]
  exact State.inCapacity_writeResult hfits ..

/-- A vector that is written and then scanned leaves its count in the scalar registers. -/
theorem execSeq_popcv {i : Instr} {l : List Bool} {n : Nat} (hi : exec i s = .next (wroteV s d l 0))
    (hcount : (l.map Bool.toNat).sum = n) :
    execSeq [i, .popcv rd d] s = .next (wroteX (wroteV s d l 0) rd n) := by
  have hbits : ((wroteV s d l 0).v.get d).bits = l := by rw [wroteV, File8.get_set_same]
  rw [execSeq_pair hi (exec_popcv ..), hbits, hcount]

/-- Two paths that write one count into one register, from the same scalar registers and FAULT, agree. -/
theorem counts_agree {o p : Result} {t : State} {n : Nat} (ho : o = .next (wroteX t rd n)) (hp : p = .next (wroteX s rd n))
    (hx : t.x = s.x) (hfault : t.fault = s.fault) :
    ∃ t u, o = .next t ∧ p = .next u ∧ t.x = u.x ∧ t.fault = s.fault ∧ u.fault = s.fault :=
  ⟨_, _, ho, hp, by rw [wroteX, wroteX, hx], hfault, rfl⟩

/-- Settles O36: each path writes the ones of the bytes, or of the number, that it is given. -/
theorem theThreeCountsAgree : Obligations.TheThreeCountsAgree := by
  intro s d rd ra rb hlegal
  refine ⟨fun hin hfits => ?_, fun hw => ?_, fun rc hw hfour hin hvalue => ?_⟩
  · exact counts_agree (execSeq_popcv (exec_fbytes hin hfits) (sum_flatMap_octetDigits _)) (exec_popcb hin) rfl rfl
  · obtain ⟨-, -, -, hnum, -⟩ := hlegal
    have hdomain : s.xNat ra < 2 ^ s.cfg.numBits := hw.trans_le (Nat.pow_le_pow_right (by decide) hnum)
    have hfnum : exec (.fnum d ra) s = .next (wroteV s d (bitsOf (s.xNat ra)) 0) := State.inDomain_writeResult hdomain d
    exact counts_agree (execSeq_popcv hfnum (sum_bitsOf _)) (exec_popc32 hw) rfl rfl
  · have hpopcb := exec_popcb (rd := rd) (hfour ▸ hin : InRange s.cfg (s.xNat rb) (s.xNat rc))
    rw [hfour, ← onesIn_leNat, State.leNat_memRead_four, hvalue] at hpopcb
    exact counts_agree hpopcb (exec_popc32 hw) rfl rfl

end paths

end Sys2Proof.Machine
end

section
/-! The statements about the sequencer and scalar commands: HALT and NOP (45_sequencer.md R281, R282), and how LI and LIS build a
value 16 bits at a time (R283, R284, 30_encoding.md R91). -/

namespace Sys2Proof.Machine

open Sys2Proof.Claims

section immediates

/-- A format XI word decodes to the command that packs its fields (30_encoding.md R82). -/
theorem decode_xiWord {i : Instr} {op : Nat} {rd : XIx} {imm : BitVec 16} (hi : i.wellFormed = true)
    (hpack : encodeNat i = packXI op rd imm) : decode (xiWord op rd imm) = .ok i := by
  have hword : xiWord op rd imm = encode i := by
    rw [xiWord, encode, hpack, packXI]
    congr 1
    omega
  rw [hword]
  exact decode_encode hi

/-- What LIS makes of a scalar: its bits 47:0, and below them the immediate (45_sequencer.md R284). -/
def shiftIn (a : Scalar) (imm : BitVec 16) : Scalar := a.extractLsb' 0 48 ++ imm

theorem toNat_shiftIn (a : Scalar) (imm : BitVec 16) :
    (shiftIn a imm).toNat = a.toNat % 2 ^ 48 * 2 ^ 16 + imm.toNat := by
  rw [shiftIn, BitVec.toNat_append, ← Nat.shiftLeft_add_eq_or_of_lt imm.isLt, Nat.shiftLeft_eq,
    BitVec.extractLsb'_toNat, Nat.shiftRight_zero]

/-- The low 64 bits of the shifted number are the shifted scalar (45_sequencer.md R284). -/
theorem ofNat_eq_shiftIn (a : Scalar) (imm : BitVec 16) :
    BitVec.ofNat 64 ((a.toNat * 2 ^ 16 + imm.toNat) % 2 ^ 64) = shiftIn a imm := by
  apply BitVec.eq_of_toNat_eq
  rw [toNat_shiftIn, BitVec.toNat_ofNat]
  omega

theorem exec_li (s : State) (rd : XIx) (imm : BitVec 16) :
    exec (.li rd imm) s = .next { s with x := s.x.set rd (imm.setWidth 64), pc := s.pc + 4 } := by
  rw [← BitVec.ofNat_toNat]
  rfl

theorem exec_lis (s : State) (rd : XIx) (imm : BitVec 16) :
    exec (.lis rd imm) s = .next { s with x := s.x.set rd (shiftIn (s.x.get rd) imm), pc := s.pc + 4 } := by
  rw [← ofNat_eq_shiftIn]
  rfl

/-- Settles O1: the words are the encodings of the two commands, and what they do is read off their definitions. -/
theorem haltEndsTheRunAndNopDoesNothing : Obligations.HaltEndsTheRunAndNopDoesNothing :=
  ⟨decode_encode (i := .halt) rfl, decode_encode (i := .nop) rfl, fun _ => ⟨rfl, rfl⟩⟩

/-- Settles O2: LIS computes on numbers what `shiftIn` says of bits. -/
theorem liLoadsAndLisShiftsIn : Obligations.LiLoadsAndLisShiftsIn := fun s rd imm =>
  ⟨decode_xiWord rfl rfl, decode_xiWord rfl rfl, exec_li s rd imm, exec_lis s rd imm⟩

end immediates

section builtValues

theorem File8.set_get {α : Type} (f : File8 α) (i : Fin 8) : f.set i (f.get i) = f := by
  fin_cases i <;> rfl

theorem File8.set_set {α : Type} (f : File8 α) (i : Fin 8) (a b : α) : (f.set i a).set i b = f.set i b := by
  fin_cases i <;> rfl

/-- LIS commands one after the other shift their immediates into the register, the first one highest. -/
theorem execSeq_lis (rd : XIx) (imms : List (BitVec 16)) (s : State) :
    execSeq (imms.map (.lis rd)) s =
      .next { s with
        x := s.x.set rd (imms.foldl shiftIn (s.x.get rd)), pc := s.pc + BitVec.ofNat 32 (4 * imms.length) } := by
  induction imms generalizing s with
  | nil => simp [execSeq, File8.set_get]
  | cons imm imms ih =>
    have hpc : s.pc + 4 + BitVec.ofNat 32 (4 * imms.length) = s.pc + BitVec.ofNat 32 (4 * (imms.length + 1)) := by
      rw [BitVec.add_assoc, Nat.mul_succ, Nat.add_comm, BitVec.ofNat_add]
      rfl
    rw [List.map_cons, execSeq_cons (exec_lis s rd imm), ih]
    simp only [File8.get_set_same, File8.set_set, List.foldl_cons, List.length_cons, hpc]

/-- LI and then LIS commands: the first immediate is extended, and the others are shifted in (30_encoding.md R91). -/
theorem execSeq_li_lis (s : State) (rd : XIx) (imm : BitVec 16) (imms : List (BitVec 16)) :
    execSeq (.li rd imm :: imms.map (.lis rd)) s =
      .next { s with
        x := s.x.set rd (imms.foldl shiftIn (imm.setWidth 64)), pc := s.pc + 4 + BitVec.ofNat 32 (4 * imms.length) } := by
  rw [execSeq_cons (exec_li s rd imm), execSeq_lis]
  simp only [File8.get_set_same, File8.set_set]

theorem toNat_halfword (n lo : Nat) : (halfword n lo).toNat = n / 2 ^ lo % 2 ^ 16 := BitVec.toNat_ofNat ..

/-- The two halfwords of a 32-bit value, put together. -/
theorem foldl_shiftIn_li32 (n : BitVec 32) :
    [halfword n.toNat 0].foldl shiftIn ((halfword n.toNat 16).setWidth 64) = n.setWidth 64 := by
  have := n.isLt
  apply BitVec.eq_of_toNat_eq
  simp only [List.foldl_cons, List.foldl_nil, toNat_shiftIn, BitVec.toNat_setWidth, toNat_halfword]
  omega

/-- The four halfwords of a 64-bit value, put together. -/
theorem foldl_shiftIn_li64 (m : BitVec 64) :
    [halfword m.toNat 32, halfword m.toNat 16, halfword m.toNat 0].foldl shiftIn ((halfword m.toNat 48).setWidth 64) = m := by
  have := m.isLt
  apply BitVec.eq_of_toNat_eq
  simp only [List.foldl_cons, List.foldl_nil, toNat_shiftIn, BitVec.toNat_setWidth, toNat_halfword]
  omega

/-- Settles O41: both expansions are an LI and LIS commands, and the halfwords that they load make up the value. -/
theorem li32AndLi64BuildAnyValue : Obligations.Li32AndLi64BuildAnyValue := by
  intro s rd n m
  have h32 := execSeq_li_lis s rd (halfword n.toNat 16) [halfword n.toNat 0]
  have h64 := execSeq_li_lis s rd (halfword m.toNat 48) [halfword m.toNat 32, halfword m.toNat 16, halfword m.toNat 0]
  rw [foldl_shiftIn_li32, BitVec.add_assoc] at h32
  rw [foldl_shiftIn_li64, BitVec.add_assoc] at h64
  exact ⟨h32, h64⟩

end builtValues

end Sys2Proof.Machine
end

section
/-! The statements about the command cycle (45_sequencer.md R280): what one step does, the faults of fetch and decode
(60_exceptions.md R301, R302), and that every run ends (R285). -/

namespace Sys2Proof.Machine

open Sys2Proof.Claims

section ticking

variable {s : State}

/-- A tick shortens the delay of the next arrival and leaves those after it (log entry 1). -/
theorem State.tick_eq (s : State) :
    s.tick = { s with
      inbox := s.inbox.head?.toList.map (fun e => { e with delay := e.delay - 1 }) ++ s.inbox.tail } := by
  unfold State.tick
  split
  case h_1 hempty => exact congrArg (fun inbox => ({ s with inbox := inbox } : State)) (by simp [hempty])
  case h_2 e rest hcons => simp [hcons]

theorem State.tick_of_inbox_nil (h : s.inbox = []) : s.tick = s := by
  rw [State.tick, h]

@[simp] theorem State.byteAt_tick (s : State) (a : Nat) : s.tick.byteAt a = s.byteAt a := by
  simp only [State.byteAt, State.tick_mem, State.tick_powerOns]

@[simp] theorem wordAtPc_tick (s : State) : wordAtPc s.tick = wordAtPc s := by
  simp only [wordAtPc, State.byteAt_tick, State.tick_pc]

theorem State.due_eq_none_iff (s : State) : s.due = none ↔ ∀ e ∈ s.inbox.head?, e.delay ≠ 0 := by
  unfold State.due
  split
  case h_1 hempty => simp [hempty]
  case h_2 e rest hcons => simp [hcons]

theorem State.due_of_delay_zero {e : HostEvent} {rest : List Arrival}
    (h : s.inbox = { delay := 0, event := e } :: rest) : s.due = some (e, rest) := by
  simp [State.due, h]

/-- No held access may complete during a run, under `rst`, or where there is none (20_memory.md R68). -/
theorem State.release_eq_none (h : s.busy = true ∨ s.rst = true ∨ s.held = []) : s.release = none := by
  rcases h with h | h | h <;> simp [State.release, h]

end ticking

section cycle

variable {s : State}

/-- A running engine with no arrival due does one command cycle (45_sequencer.md R280). -/
theorem step_running (hb : s.busy = true) (hd : s.due = none) : step s = engineStep s.tick := by
  simp only [step, blockStep, State.release_busy hb, hd, hb, if_true]

theorem step_due (hr : s.release = none) {e : HostEvent} {rest : List Arrival} (hd : s.due = some (e, rest)) :
    step s = .next (({ s with inbox := rest } : State).event e) := by
  simp only [step, blockStep, hr, hd]

theorem step_idle (hr : s.release = none) (hd : s.due = none) (hb : s.busy = false) : step s = .next s.tick := by
  simp [step, blockStep, hr, hd, hb]

theorem engineStep_misaligned (ha : s.pc.toNat % 4 ≠ 0) :
    engineStep s = .next (s.enterFault .fetchMisaligned s.pc.toNat 0) := if_pos ha

theorem engineStep_outside (ha : s.pc.toNat % 4 = 0) (hout : s.cfg.dmemBytes < s.pc.toNat + 4) :
    engineStep s = .next (s.enterFault .fetchRange s.pc.toNat 0) := by
  simp [engineStep, ha, hout]

/-- A word that does not decode takes ILLEGAL (60_exceptions.md R301). -/
theorem engineStep_illegal (ha : s.pc.toNat % 4 = 0) (hin : s.pc.toNat + 4 ≤ s.cfg.dmemBytes)
    (hw : ∀ i, decode (wordAtPc s) ≠ .ok i) : engineStep s = .next (s.enterFault .illegal 0 (wordAtPc s)) := by
  rcases hdec : decode (wordAtPc s) with e | i
  · simp [engineStep, ha, Nat.not_lt.2 hin, State.commandWord_eq_wordAtPc, hdec]
  · exact absurd hdec (hw i)

theorem engineStep_command (ha : s.pc.toNat % 4 = 0) (hin : s.pc.toNat + 4 ≤ s.cfg.dmemBytes) {i : Instr}
    (hw : decode (wordAtPc s) = .ok i) : engineStep s = exec i s := by
  simp [engineStep, ha, Nat.not_lt.2 hin, State.commandWord_eq_wordAtPc, hw]

/-- Settles O46: the cases of `blockStep`, in their order. -/
theorem aRunningStepExecutesTheDecodedCommand : Obligations.ARunningStepExecutesTheDecodedCommand := by
  intro s
  refine ⟨fun i hb hd ha hin hw => ?_, fun e rest hheld hinbox => ?_, fun hb hheld hd => ?_, s.due_eq_none_iff,
    fun _ => rfl, s.tick_eq⟩
  · rw [step_running hb hd]
    exact engineStep_command (by rwa [State.tick_pc]) (by rwa [State.tick_pc, State.tick_cfg]) (by rwa [wordAtPc_tick])
  · exact step_due (State.release_eq_none hheld) (State.due_of_delay_zero hinbox)
  · exact step_idle (State.release_eq_none (.inr hheld)) hd hb

/-- A word is in the range that `sat32` leaves as it is (92_eei_decisions.md D41). -/
theorem sat32_toNat (w : Word) : sat32 w.toNat = w := by
  have := w.isLt
  rw [sat32, Nat.min_eq_left (by omega), BitVec.ofNat_toNat, BitVec.setWidth_eq]

/-- The fault entry after a tick, with PC as it was before the tick (60_exceptions.md R302). -/
theorem State.enterFault_tick (s : State) (f : Trap) (info w : Word) :
    s.tick.enterFault f info.toNat w =
      { s.tick with busy := false, fault := true, fcode := some f, fpc := s.pc, finfo := info, finst := w } := by
  simp only [State.enterFault, State.tick_pc, sat32_toNat]

/-- Settles O47: each fault is taken by the cycle after the tick, which leaves PC and the word there as they are. -/
theorem fetchAndDecodeFaultsAreTaken : Obligations.FetchAndDecodeFaultsAreTaken := by
  intro s hb hd
  have hpc := s.tick_pc
  have hcfg := s.tick_cfg
  rw [step_running hb hd]
  refine ⟨fun ha => ?_, fun ha hout => ?_, fun ha hin hw => ?_⟩
  · rw [engineStep_misaligned (by rwa [hpc]), hpc, State.enterFault_tick]
  · rw [engineStep_outside (by rwa [hpc]) (by rwa [hpc, hcfg]), hpc, State.enterFault_tick]
  · rw [engineStep_illegal (by rwa [hpc]) (by rwa [hpc, hcfg]) (by rwa [wordAtPc_tick]), wordAtPc_tick]
    exact congrArg _ (State.enterFault_tick s .illegal 0 _)

end cycle

section termination

theorem CommandEffect.exists_next {i : Instr} {s : State} {r : Result} (h : CommandEffect i s r) : ∃ t, r = .next t := by
  cases h <;> exact ⟨_, rfl⟩

theorem CommandEffect.inbox {i : Instr} {s t : State} (h : CommandEffect i s (.next t)) : t.inbox = s.inbox := by
  cases h <;> rfl

/-- A command ends the run or goes on to the next word: no command jumps (45_sequencer.md R285). -/
theorem CommandEffect.idle_or_advanced {i : Instr} {s t : State} (h : CommandEffect i s (.next t)) :
    t.busy = false ∨ t.pc = s.pc + 4 := by
  cases h with
  | raised | halted => exact .inl rfl
  | advanced | wroteVector | wroteScalar | wroteBoth | exported => exact .inr rfl

theorem engineStep_exists_next (s : State) : ∃ t, engineStep s = .next t := by
  rcases engineStep_cases s with ⟨-, he⟩ | ⟨-, -, he⟩ | ⟨-, -, ⟨-, -, he⟩ | ⟨i, -, he⟩⟩
  case inr.inr.inr => exact he ▸ (exec_effect s i).exists_next
  all_goals exact ⟨_, he⟩

theorem engineStep_inbox {s t : State} (h : engineStep s = .next t) : t.inbox = s.inbox := by
  rcases engineStep_effect h with ⟨f, info, w, rfl⟩ | ⟨i, he⟩
  · rfl
  · exact he.inbox

/-- A command cycle ends the run, or its word was inside DMEM and the run goes on at the next word (45_sequencer.md R285). -/
theorem engineStep_idle_or_advanced {s t : State} (h : engineStep s = .next t) :
    t.busy = false ∨ (s.pc.toNat + 4 ≤ s.cfg.dmemBytes ∧ t.pc = s.pc + 4) := by
  rcases engineStep_cases s with ⟨-, he⟩ | ⟨-, -, he⟩ | ⟨-, hin, ⟨-, -, he⟩ | ⟨i, -, he⟩⟩
  case inr.inr.inr => exact (h ▸ he ▸ exec_effect s i).idle_or_advanced.imp_right fun hpc => ⟨hin, hpc⟩
  all_goals exact .inl (Host.Outcome.next.inj (h.symm.trans he) ▸ rfl)

/-- The variant of a run: how many steps it can still take, the words from PC to the end of DMEM and the fetch after them. -/
def State.stepsLeft (s : State) : Nat := if s.busy then (s.cfg.dmemBytes - s.pc.toNat) / 4 + 1 else 0

theorem State.stepsLeft_eq_zero_iff {s : State} : s.stepsLeft = 0 ↔ s.busy = false := by
  simp [State.stepsLeft]

theorem State.stepsLeft_of_busy {s : State} (hb : s.busy = true) :
    s.stepsLeft = (s.cfg.dmemBytes - s.pc.toNat) / 4 + 1 := if_pos hb

theorem State.stepsLeft_le (s : State) : s.stepsLeft ≤ s.cfg.dmemBytes / 4 + 1 := by
  unfold State.stepsLeft
  split <;> omega

/-- Every command cycle lowers the variant: PC does not wrap before the end of DMEM, which is below 2^32 (00_scope.md R6). -/
theorem engineStep_stepsLeft_lt {s t : State} (hsize : s.cfg.dmemBytes < 2 ^ 32) (hb : s.busy = true)
    (h : engineStep s = .next t) : t.stepsLeft < s.stepsLeft := by
  rw [State.stepsLeft_of_busy hb]
  cases htb : t.busy with
  | false => rw [State.stepsLeft_eq_zero_iff.2 htb]; omega
  | true =>
    rcases engineStep_idle_or_advanced h with hidle | ⟨hin, hpc⟩
    · simp [htb] at hidle
    · have hnext : t.pc.toNat = s.pc.toNat + 4 := by
        rw [hpc, BitVec.toNat_add_of_lt (hin.trans_lt hsize)]
        rfl
      rw [State.stepsLeft_of_busy htb, engineStep_cfg h, hnext]
      omega

theorem run_succ {s t : State} (h : step s = .next t) (k : Nat) :
    Host.Core.run Sys2Proof.core (k + 1) s = Host.Core.run Sys2Proof.core k t := by
  have hcore : Sys2Proof.core.step s = .next t := h
  simp only [Host.Core.run, hcore]

/-- With the host silent, the engine is idle within as many steps as the variant counts. -/
theorem exists_run_idle {n : Nat} {s : State} (hsize : s.cfg.dmemBytes < 2 ^ 32) (hinbox : s.inbox = [])
    (hn : s.stepsLeft ≤ n) : ∃ k ≤ n, ∃ t, Host.Core.run Sys2Proof.core k s = .next t ∧ t.busy = false := by
  induction n generalizing s with
  | zero => exact ⟨0, le_rfl, s, rfl, State.stepsLeft_eq_zero_iff.1 (Nat.le_zero.1 hn)⟩
  | succ n ih =>
    cases hb : s.busy with
    | false => exact ⟨0, Nat.zero_le _, s, rfl, hb⟩
    | true =>
      obtain ⟨t, ht⟩ := engineStep_exists_next s
      have hlt : t.stepsLeft < s.stepsLeft := engineStep_stepsLeft_lt hsize hb ht
      have hstep : step s = .next t := by
        rw [step_running hb (State.due_empty hinbox), State.tick_of_inbox_nil hinbox, ht]
      obtain ⟨k, hk, u, hrun, hidle⟩ :=
        ih (engineStep_cfg ht ▸ hsize) ((engineStep_inbox ht).trans hinbox) (by omega)
      exact ⟨k + 1, Nat.succ_le_succ hk, u, (run_succ hstep k).trans hrun, hidle⟩

/-- Settles O60: the variant is at most DMEM_BYTES / 4 + 1, whatever the state. -/
theorem everyRunEnds : Obligations.EveryRunEnds := by
  intro s hlegal hinbox
  obtain ⟨-, -, -, -, -, -, -, hdmem⟩ := hlegal
  exact exists_run_idle (by omega) hinbox s.stepsLeft_le

end termination

end Sys2Proof.Machine
end

section
/-! The statements about exceptions (60_exceptions.md R302, R303): a command completes, or faults with no effect but the fault
entry; and no step of the block is without a next state (log entry 14). -/

namespace Sys2Proof.Machine

open Sys2Proof.Claims

section preciseFaults

/-- What a command other than HALT may answer: a fault, or new contents of V, X and DMEM and PC advanced. `CommandEffect` does
not do here, because it leaves HALT's result, with its new BUSY and DONE, open to every command. -/
inductive FaultsOrAdvances (s : State) : Result → Prop where
  | raised (f : Trap) (info : Nat) : FaultsOrAdvances s (s.raise f info)
  | advanced (v : File8 VReg) (x : File8 Scalar) (m : Memory) :
      FaultsOrAdvances s ({ s with v := v, x := x, mem := m } : State).complete

namespace FaultsOrAdvances

variable {s : State}

theorem inCapacity {n : Nat} {use : Result} (h : FaultsOrAdvances s use) : FaultsOrAdvances s (s.inCapacity n use) := by
  rcases s.inCapacity_cases n use with ⟨-, he⟩ | ⟨-, he⟩ <;> rw [he]
  · exact h
  · exact .raised ..

theorem inDomain {n : Nat} {use : Nat → Result} (h : ∀ v, FaultsOrAdvances s (use v)) :
    FaultsOrAdvances s (s.inDomain n use) := by
  rcases s.inDomain_cases n use with ⟨-, he⟩ | ⟨-, he⟩ <;> rw [he]
  · exact h n
  · exact .raised ..

theorem fromSource {a n : Nat} {use : List Byte → Result} (h : ∀ bs, FaultsOrAdvances s (use bs)) :
    FaultsOrAdvances s (s.fromSource a n use) := by
  rcases s.fromSource_cases a n use with ⟨-, he⟩ | ⟨-, he⟩ <;> rw [he]
  · exact h _
  · exact .raised ..

theorem toDest {rd : XIx} {a n : Nat} {bs : List Byte} : FaultsOrAdvances s (s.toDest rd a bs n) := by
  rcases s.toDest_cases rd a bs n with ⟨-, he⟩ | ⟨-, he⟩ <;> rw [he]
  · exact .advanced ..
  · exact .raised ..

end FaultsOrAdvances

/-- HALT alone ends the run without a fault (45_sequencer.md R280, R281). -/
theorem exec_faultsOrAdvances {i : Instr} (hi : i ≠ .halt) (s : State) : FaultsOrAdvances s (exec i s) := by
  cases i with
  | halt => exact absurd rfl hi
  | nop | li | lis | setv | clr | clone | eq | brev | slice | len | new | octet | and | or | xor | not | popcv =>
    exact .advanced ..
  | fill | set | get | push | sflr => exact .inCapacity (.advanced ..)
  | fnum | fnumo | tonum => exact .inDomain fun _ => .advanced ..
  | fhexn => exact .inDomain fun _ => .inDomain fun _ => .advanced ..
  | popcb => exact .fromSource fun _ => .advanced ..
  | fints | fbytes => exact .fromSource fun _ => .inCapacity (.advanced ..)
  | tooff | tobytes | tostr | tobits => exact .toDest
  | tohex => exact .inDomain fun _ => .toDest
  | pop =>
    simp only [exec, execPop]
    split <;> exact .advanced ..
  | idxof =>
    simp only [exec, execIdxof]
    split
    · split <;> exact .advanced ..
    · exact .advanced ..
  | popc32 =>
    simp only [exec, execPopc32]
    split
    · exact .raised ..
    · exact .advanced ..
  | fbin | ldbits =>
    simp only [exec, execFbin, execLdbits]
    refine .fromSource fun bs => ?_
    split
    · exact .raised ..
    · exact .inCapacity (.advanced ..)
  | foff =>
    simp only [exec, execFoff]
    refine .fromSource fun bs => ?_
    split
    · exact .raised ..
    · exact .advanced ..
  | fdec | fhex =>
    simp only [exec, execFdec, execFhex]
    refine .fromSource fun bs => ?_
    split
    · exact .raised ..
    · exact .inDomain fun _ => .advanced ..

/-- Settles O48: HALT's next state is read off its definition, and every other command is one of `FaultsOrAdvances`. -/
theorem everyCommandCompletesOrFaultsPrecisely : Obligations.EveryCommandCompletesOrFaultsPrecisely := by
  intro i s
  by_cases hi : i = .halt
  · subst hi
    exact ⟨_, rfl, .inr ⟨rfl, rfl, rfl, rfl, rfl, rfl, rfl, ⟨rfl, rfl, rfl, rfl, rfl, rfl, rfl, rfl⟩, absurd rfl⟩⟩
  · have hresult := exec_faultsOrAdvances hi s
    generalize exec i s = r at hresult ⊢
    cases hresult with
    | raised f info => exact ⟨_, s.raise_eq_faulted f info, .inl ⟨f, info, rfl⟩⟩
    | advanced v x m =>
      exact ⟨_, rfl, .inr ⟨rfl, rfl, rfl, rfl, rfl, rfl, rfl, ⟨rfl, rfl, rfl, rfl, rfl, rfl, rfl, rfl⟩,
        fun _ => ⟨rfl, rfl⟩⟩⟩

end preciseFaults

section neverStops

/-- A command cycle answers a next state, and the other cases of a step are next states by definition. -/
theorem step_exists_next (s : State) : ∃ t, step s = .next t := by
  rcases blockStep_cases s with ⟨_, _, -, he⟩ | ⟨_, _, -, -, he⟩ | ⟨-, -, -, he⟩ | ⟨-, -, -, he⟩
  case inr.inr.inl =>
    obtain ⟨t, ht⟩ := engineStep_exists_next s.tick
    exact ⟨t, he.trans ht⟩
  all_goals exact ⟨_, he⟩

theorem run_exists_next (k : Nat) (s : State) : ∃ t, Host.Core.run Sys2Proof.core k s = .next t := by
  induction k generalizing s with
  | zero => exact ⟨s, rfl⟩
  | succ k ih =>
    obtain ⟨t, ht⟩ := step_exists_next s
    obtain ⟨u, hu⟩ := ih t
    exact ⟨u, (run_succ ht k).trans hu⟩

/-- Settles O50: one step by the cases of `blockStep`, and a run by induction on the number of its steps. -/
theorem everyStepAnswersANextState : Obligations.EveryStepAnswersANextState :=
  ⟨step_exists_next, run_exists_next⟩

end neverStops

end Sys2Proof.Machine
end

section
/-! The statements about the resets (70_reset_and_hazards.md R340 to R342): what a soft reset leaves in DMEM, the command at PC
being cut short (log entry 4), and what the block does while `rst` is asserted. -/

namespace Sys2Proof.Machine

open Sys2Proof.Claims

section lookups

/-- In a canonical memory the cell of an address is the one that is listed for it. -/
theorem Memory.listed_of_mem {m : Memory} (hm : Memory.wf m) {a : Nat} {x : Byte} (hc : (a, x) ∈ m) :
    Memory.listed m a = some x := by
  obtain ⟨before, after, rfl⟩ := List.append_of_mem hc
  obtain ⟨-, -, hbefore⟩ := List.pairwise_append.1 hm
  refine List.lookup_eq_some_iff.2 ⟨before, after, rfl, fun c hcb => bne_iff_ne.2 ?_⟩
  exact (hbefore c hcb (a, x) List.mem_cons_self).ne'

/-- Storing some of the cells of `l` leaves each byte as it was, or at the value that one of these cells gives it. -/
theorem Memory.listed_foldl_store {f : Memory → Host.Cell → Memory}
    (hf : ∀ m c, f m c = m ∨ f m c = Memory.store m c.1 [c.2]) (l m : Memory) (a : Nat) :
    Memory.listed (l.foldl f m) a = Memory.listed m a ∨
      ∃ x, (a, x) ∈ l ∧ Memory.listed (l.foldl f m) a = some x := by
  induction l generalizing m with
  | nil => exact .inl rfl
  | cons c l ih =>
    rw [List.foldl_cons]
    rcases ih (f m c) with hkept | ⟨x, hx, hnew⟩
    · rcases hf m c with hs | hs
      · exact .inl (hkept.trans (by rw [hs]))
      · rw [hs, Memory.listed_store] at hkept
        split at hkept
        · next ha =>
          obtain rfl : c.1 = a := by simp only [List.length_singleton] at ha; omega
          exact .inr ⟨c.2, List.mem_cons_self, hs ▸ hkept.trans (by simp)⟩
        · exact .inl (hs ▸ hkept)
    · exact .inr ⟨x, List.mem_cons_of_mem c hx, hnew⟩

end lookups

section softReset

variable {s t : State}

/-- A command cycle keeps the canonical form of memory: nothing but an export stores (20_memory.md R60). -/
theorem engineStep_mem_wf (hm : Memory.wf s.mem) (h : engineStep s = .next t) : Memory.wf t.mem := by
  rcases engineStep_effect h with ⟨f, info, w, rfl⟩ | ⟨i, he⟩
  · exact hm
  · cases he with
    | raised | advanced | halted | wroteVector | wroteScalar | wroteBoth => exact hm
    | exported => exact Memory.store_wf hm ..

/-- A command cut short leaves each byte as it was listed, or as the completed command lists it (70_reset_and_hazards.md R341). -/
theorem State.listed_cutShort (hm : Memory.wf s.mem) (h : engineStep s = .next t) (a : Nat) :
    Memory.listed s.cutShort a = Memory.listed s.mem a ∨
      ∃ x, Memory.listed t.mem a = some x ∧ Memory.listed s.cutShort a = some x := by
  simp only [State.cutShort, h]
  refine (Memory.listed_foldl_store (fun m c => ?_) t.mem s.mem a).imp_right fun ⟨x, hx, hnew⟩ =>
    ⟨x, Memory.listed_of_mem (engineStep_mem_wf hm h) hx, hnew⟩
  split
  · exact .inl rfl
  · split
    · exact .inr rfl
    · exact .inl rfl

theorem State.softReset_mem_of_idle (hb : s.busy = false) : s.softReset.mem = s.mem := by
  simp [State.softReset, hb]

theorem State.softReset_mem_of_busy (hb : s.busy = true) : s.softReset.mem = s.cutShort := by
  simp [State.softReset, hb]

/-- A soft reset during a run leaves each byte of DMEM old, or as the command at PC would have left it (log entry 4). -/
theorem State.byteAt_softReset (hm : Memory.wf s.mem) (hb : s.busy = true) (h : engineStep s = .next t) (a : Nat) :
    s.softReset.byteAt a = s.byteAt a ∨ s.softReset.byteAt a = t.byteAt a := by
  have hpowerOns : s.softReset.powerOns = s.powerOns := rfl
  simp only [State.byteAt, State.softReset_mem_of_busy hb, hpowerOns]
  rcases State.listed_cutShort hm h a with hold | ⟨x, hnew, hcut⟩
  · exact .inl (by rw [hold])
  · exact .inr (by rw [hcut, hnew, Option.getD_some, Option.getD_some])

theorem State.arrive_softReset (hrst : s.rst = false) {d : Word} (hd : d.getLsbD 2 = true) :
    s.arrive (.write 0x10 .w32 d) = s.softReset := by
  rw [State.arrive_writeCtrl hrst, State.writeCtrl, if_pos hd]

/-- Settles O54: the write is a soft reset, which in a run leaves each byte old or at the value of the command cut short. -/
theorem softResetKeepsOrCutsShortMemory : Obligations.SoftResetKeepsOrCutsShortMemory := by
  intro s d hm hrst hd
  obtain ⟨-, -, hresets⟩ := resetLeavesTheListedValues
  obtain ⟨hreset, -⟩ := hresets s
  refine ⟨s.softReset, (State.arrive_softReset hrst hd).symm, hreset, rfl, rfl, rfl, State.softReset_mem_of_idle,
    fun hb a => ?_⟩
  obtain ⟨u, hu⟩ := engineStep_exists_next s
  exact (State.byteAt_softReset hm hb hu a).imp_right fun hnew => ⟨u, hu, hnew⟩

end softReset

section assertedReset

variable {s : State}

/-- The assertion of `rst` unlists every byte of DMEM (70_reset_and_hazards.md R342, log entry 3). -/
theorem State.byteAt_powerOnReset (s : State) (a : Nat) :
    s.powerOnReset.byteAt a = Config.powerOnDmem (s.powerOns + 1) a := rfl

theorem State.arrive_of_rst (hrst : s.rst = true) (a : HostAccess) : s.arrive a = s.ignore a := if_pos hrst

/-- Settles O55: the assertion is a power-on reset, and `rst` keeps held accesses waiting and ignores those that arrive. -/
theorem assertedResetIgnoresTheHost : Obligations.AssertedResetIgnoresTheHost := by
  intro s
  obtain ⟨-, -, hresets⟩ := resetLeavesTheListedValues
  obtain ⟨-, hreset⟩ := hresets s
  refine ⟨⟨hreset, rfl, rfl, rfl, rfl, s.byteAt_powerOnReset⟩, rfl, fun hrst => ⟨fun off d w => ?_, fun hb hd => ?_⟩⟩
  · exact ⟨State.arrive_of_rst hrst (.write off w d), State.arrive_of_rst hrst (.read off w)⟩
  · exact step_idle (State.release_eq_none (.inr (.inl hrst))) hd hb

end assertedReset

end Sys2Proof.Machine
end
